-- ==== Sys2Proof/Word.lean ====
section
/-! DEFINITION. The widths of the core (00_scope.md R3, 30_encoding.md R71): bytes, 16-bit words, and the operand fields of an opcode. -/

namespace Sys2Proof

/-- An 8-bit value: a general register, a timer, a memory cell (R3). -/
abbrev Byte := BitVec 8

/-- A 16-bit value: an opcode word, I, PC, a stack entry (R3, R70). -/
abbrev Word := BitVec 16

/-- A 4-bit field: a register index `x` or `y`, the nibble `n`, a hex key code (R71, R38). -/
abbrev Nibble := BitVec 4

/-- The 12-bit address field `nnn` (R71). -/
abbrev Addr12 := BitVec 12

/-- The size of Memory in cells, addresses 0x000–0xFFF (R3, R50). -/
abbrev memorySize : Nat := 4096

/-- The first address after the font, which fills 0x000–0x04F (R3, R51). -/
abbrev fontEnd : Nat := 80

end Sys2Proof
end

