-- ==== Sys2Proof/Config.lean ====
section
/-! DEFINITION. The parameters of 00_scope.md R4 as a type, and the free values: the constants the spec leaves open, which have no body, so that no proof can see what they are. -/

namespace Sys2Proof

/-- R231: what a timer tick does to a timer that is 0. -/
inductive TimerUnderflow where
  /-- The timer stays 0 (the default). -/
  | hold
  /-- The timer becomes 60. -/
  | reload60
deriving DecidableEq, Repr

/-- R113: the register SHR and SHL shift. -/
inductive ShiftSource where
  /-- Vx (the default). -/
  | vx
  /-- Vy. -/
  | vy
deriving DecidableEq, Repr

/-- R101: the order in which a result and its flag are written. -/
inductive VfOrder where
  /-- The flag first, so that the result stays when the destination is VF (the default). -/
  | resultLast
  /-- The result first, so that the flag stays when the destination is VF. -/
  | flagLast
deriving DecidableEq, Repr

/-- R194: I after a block transfer. -/
inductive LdstI where
  /-- I keeps its value (the default). -/
  | unchanged
  /-- I moves past the bytes transferred. -/
  | advance
deriving DecidableEq, Repr

/-- R130: what SYS nnn does. -/
inductive SysPolicy where
  /-- It raises UnimplementedInstruction (the default). -/
  | fault
  /-- It has no effect but the fetch advance. -/
  | nop
deriving DecidableEq, Repr

/-- R74, R75: whether the bits a class does not need are examined. -/
inductive DecodeMode where
  /-- They are not examined (the default). -/
  | source
  /-- The whole word must match. -/
  | strict
deriving DecidableEq, Repr

/-- R192: the digit LD F, Vx takes from Vx. -/
inductive FontDigit where
  /-- All 8 bits (the default). -/
  | full
  /-- The low nibble. -/
  | lowNibble
deriving DecidableEq, Repr

/-- R54: a write into the font region. -/
inductive FontWrite where
  /-- It raises ReadOnlyWrite (the default). -/
  | fault
  /-- It takes effect. -/
  | write
deriving DecidableEq, Repr

/-- RESET_FILL of R4: what construction puts where the source states no value.
`mem` lists cells outside the font; a cell it does not list is filled with 0. -/
structure ResetFill where
  v   : Vector Byte 16
  i   : Word
  dt  : Byte
  st  : Byte
  mem : List (Nat × Byte)
deriving DecidableEq, Repr

/-- The parameters of R4, each an argument of the model. -/
structure Params where
  /-- START_ADDR, legal in 0x050..0xFFF. -/
  startAddr      : Nat
  /-- STACK_DEPTH, a natural ≥ 1. -/
  stackDepth     : Nat
  /-- IPF, instructions per frame, a natural ≥ 1. -/
  ipf            : Nat
  timerUnderflow : TimerUnderflow
  shiftSource    : ShiftSource
  vfOrder        : VfOrder
  ldstI          : LdstI
  sysPolicy      : SysPolicy
  decodeMode     : DecodeMode
  fontDigit      : FontDigit
  fontWrite      : FontWrite
  /-- FONT_DATA, the 80 bytes at 0x000–0x04F. -/
  fontData       : Vector Byte 80
  resetFill      : ResetFill
deriving DecidableEq, Repr

/-- The ranges R4 gives the parameters (START_ADDR's lower bound keeps the image out of the font, R251). -/
def Params.legal (p : Params) : Bool :=
  decide (fontEnd ≤ p.startAddr) && decide (p.startAddr < memorySize)
    && decide (1 ≤ p.stackDepth) && decide (1 ≤ p.ipf)

/-- DESIGN CHOICE (log 2), free value: IPF less one. R4 gives IPF no default, only IPF ≥ 1. -/
opaque Config.ipfLessOne : Nat

/-- IPF as the hardware's integrator fixes it: some natural ≥ 1 (R4, R95, log 2). -/
def Config.ipf : Nat := Config.ipfLessOne + 1

/-- DESIGN CHOICE (log 5), free value: the key sample of draw `k`, any answer at any step (R170). -/
opaque Config.keySample : Nat → Option Nibble

/-- DESIGN CHOICE (log 6), free value: the random byte of draw `k`, any value (R114). -/
opaque Config.randomByte : Nat → Byte

end Sys2Proof
end

