-- ==== Sys2Proof/Machine/Defaults.lean ====
section
/-! DEFINITION. The values of the parameters this hardware takes or the spec's defaults (00_scope.md R4), and what a memory cell holds at construction (20_memory.md R51, R53). -/

namespace Sys2Proof

/-- FONT_DATA's default, the table of 20_memory.md R53, glyphs 0..F in order, five rows each.
PRESUMED by the spec (log 4): the source gives the font's size and place, not its bytes. -/
def defaultFont : Vector Byte 80 := #v[
  0xF0, 0x90, 0x90, 0x90, 0xF0,
  0x20, 0x60, 0x20, 0x20, 0x70,
  0xF0, 0x10, 0xF0, 0x80, 0xF0,
  0xF0, 0x10, 0xF0, 0x10, 0xF0,
  0x90, 0x90, 0xF0, 0x10, 0x10,
  0xF0, 0x80, 0xF0, 0x10, 0xF0,
  0xF0, 0x80, 0xF0, 0x90, 0xF0,
  0xF0, 0x10, 0x20, 0x40, 0x40,
  0xF0, 0x90, 0xF0, 0x90, 0xF0,
  0xF0, 0x90, 0xF0, 0x10, 0xF0,
  0xF0, 0x90, 0xF0, 0x90, 0x90,
  0xE0, 0x90, 0xE0, 0x90, 0xE0,
  0xF0, 0x80, 0x80, 0x80, 0xF0,
  0xE0, 0x90, 0x90, 0x90, 0xE0,
  0xF0, 0x80, 0xF0, 0x80, 0xF0,
  0xF0, 0x80, 0xF0, 0x80, 0x80]

/-- RESET_FILL's default, all 0 (R4, D5). DESIGN CHOICE (log 3): the source states none of these values. -/
def defaultFill : ResetFill :=
  { v := Vector.replicate 16 0#8, i := 0#16, dt := 0#8, st := 0#8, mem := [] }

/-- The value or default of each parameter of R4; IPF, which has none, is the free constant of Config (log 2, log 11). -/
def defaultParams : Params :=
  { startAddr := 0x200
    stackDepth := 48
    ipf := Config.ipf
    timerUnderflow := .hold
    shiftSource := .vx
    vfOrder := .resultLast
    ldstI := .unchanged
    sysPolicy := .fault
    decodeMode := .source
    fontDigit := .full
    fontWrite := .fault
    fontData := defaultFont
    resetFill := defaultFill }

/-- The fill of a free cell: the byte RESET_FILL lists for it, else 0 (R51, log 3). -/
def fillByte : List (Nat × Byte) → Nat → Byte
  | [], _ => 0#8
  | (a', b) :: rest, a => if a = a' then b else fillByte rest a

/-- What a cell holds at construction where no program image lies: FONT_DATA in 0x000–0x04F, else its fill (R51, R250).
This is what an address that `mem` does not list reads as (log 17). -/
def Params.initialByte (p : Params) (a : Nat) : Byte :=
  if h : a < 80 then p.fontData[a] else fillByte p.resetFill.mem a

end Sys2Proof
end

