-- ==== Sys2Proof/Syntax.lean ====
section
/-! DEFINITION. The 35 instruction classes of 30_encoding.md R76, one constructor for each row of opcode_table.json, with the operand fields of R71. -/

namespace Sys2Proof

/-- An instruction. `x`, `y` index V0..VF, `kk`, `n` and `nnn` are immediates (R71, R72).
Four classes also carry the nibble that decoding does not examine when DECODE_MODE = source (R74):
w[11:8] of CLS and RET, w[3:0] of SE Vx, Vy and SNE Vx, Vy. No meaning reads it;
it is kept so that the raw word can be given in a fault record (R211, log 10). -/
inductive Instr where
  /-- 00E0 CLS (R150). -/
  | cls (x : Nibble)
  /-- 00EE RET (R131). -/
  | ret (x : Nibble)
  /-- 0nnn SYS addr (R130). -/
  | sys (nnn : Addr12)
  /-- 1nnn JP addr (R132). -/
  | jp (nnn : Addr12)
  /-- 2nnn CALL addr (R133). -/
  | call (nnn : Addr12)
  /-- 3xkk SE Vx, byte (R134). -/
  | seImm (x : Nibble) (kk : Byte)
  /-- 4xkk SNE Vx, byte (R135). -/
  | sneImm (x : Nibble) (kk : Byte)
  /-- 5xy0 SE Vx, Vy (R136). -/
  | seReg (x y n : Nibble)
  /-- 6xkk LD Vx, byte (R102). -/
  | ldImm (x : Nibble) (kk : Byte)
  /-- 7xkk ADD Vx, byte (R103). -/
  | addImm (x : Nibble) (kk : Byte)
  /-- 8xy0 LD Vx, Vy (R104). -/
  | ldReg (x y : Nibble)
  /-- 8xy1 OR Vx, Vy (R105). -/
  | orReg (x y : Nibble)
  /-- 8xy2 AND Vx, Vy (R106). -/
  | andReg (x y : Nibble)
  /-- 8xy3 XOR Vx, Vy (R107). -/
  | xorReg (x y : Nibble)
  /-- 8xy4 ADD Vx, Vy (R108). -/
  | addReg (x y : Nibble)
  /-- 8xy5 SUB Vx, Vy (R109). -/
  | sub (x y : Nibble)
  /-- 8xy6 SHR Vx, Vy (R110). -/
  | shr (x y : Nibble)
  /-- 8xy7 SUBN Vx, Vy (R111). -/
  | subn (x y : Nibble)
  /-- 8xyE SHL Vx, Vy (R112). -/
  | shl (x y : Nibble)
  /-- 9xy0 SNE Vx, Vy (R137). -/
  | sneReg (x y n : Nibble)
  /-- Annn LD I, addr (R190). -/
  | ldI (nnn : Addr12)
  /-- Bnnn JP V0, addr (R138). -/
  | jpV0 (nnn : Addr12)
  /-- Cxkk RND Vx, byte (R114). -/
  | rnd (x : Nibble) (kk : Byte)
  /-- Dxyn DRW Vx, Vy, nibble (R152). -/
  | drw (x y n : Nibble)
  /-- Ex9E SKP Vx (R175). -/
  | skp (x : Nibble)
  /-- ExA1 SKNP Vx (R176). -/
  | sknp (x : Nibble)
  /-- Fx07 LD Vx, DT (R171). -/
  | ldVxDt (x : Nibble)
  /-- Fx0A LD Vx, K (R174). -/
  | ldVxK (x : Nibble)
  /-- Fx15 LD DT, Vx (R172). -/
  | ldDtVx (x : Nibble)
  /-- Fx18 LD ST, Vx (R173). -/
  | ldStVx (x : Nibble)
  /-- Fx1E ADD I, Vx (R191). -/
  | addIVx (x : Nibble)
  /-- Fx29 LD F, Vx (R192). -/
  | ldFVx (x : Nibble)
  /-- Fx33 LD B, Vx (R193). -/
  | ldBVx (x : Nibble)
  /-- Fx55 LD [I], Vx (R195). -/
  | ldMemVx (x : Nibble)
  /-- Fx65 LD Vx, [I] (R196). -/
  | ldVxMem (x : Nibble)
deriving DecidableEq, Repr

end Sys2Proof
end

