-- ==== Sys2Proof/WellFormed.lean ====
section
/-! DEFINITION. Which instructions are the reading of some word under a decode mode (30_encoding.md R74, R75). The field widths are in the types; what is left to check is SYS against CLS and RET, and the nibbles that `strict` requires to be those of the canonical pattern. -/

namespace Sys2Proof

/-- The check, per class. Under `source` a 0x0 word with low byte E0 or EE is CLS or RET, so it is no SYS;
under `strict` only 00E0 and 00EE are, and the unexamined nibbles must be 0. -/
def WellFormed : DecodeMode → Instr → Bool
  | .source, .sys nnn => nnn.extractLsb' 0 8 != 0xE0#8 && nnn.extractLsb' 0 8 != 0xEE#8
  | .strict, .sys nnn => nnn != 0x0E0#12 && nnn != 0x0EE#12
  | .strict, .cls x => x == 0#4
  | .strict, .ret x => x == 0#4
  | .strict, .seReg _ _ n => n == 0#4
  | .strict, .sneReg _ _ n => n == 0#4
  | _, _ => true

end Sys2Proof
end

