-- ==== Sys2Proof/Decode.lean ====
section
/-! DEFINITION. The decoder of 30_encoding.md R74 (DECODE_MODE = source) and R75 (strict), total on any bytes and rejecting by name, and after it the encoder, written from the formats of R73 and the encodings of the instruction rules. -/

namespace Sys2Proof

/-- Why bytes are no instruction. -/
inductive DecodeReject where
  /-- R77: the word is illegal; executing it raises UnimplementedInstruction naming it. -/
  | unimplemented (w : Word)
  /-- R70: an instruction is two bytes, and fewer are left. -/
  | truncated
deriving DecidableEq, Repr

/-- The fields of R71, the same cut for every word. -/
def fieldOp (w : Word) : Nibble := w.extractLsb' 12 4
/-- R71: w[11:0]. -/
def fieldNnn (w : Word) : Addr12 := w.extractLsb' 0 12
/-- R71: w[11:8]. -/
def fieldX (w : Word) : Nibble := w.extractLsb' 8 4
/-- R71: w[7:4]. -/
def fieldY (w : Word) : Nibble := w.extractLsb' 4 4
/-- R71: w[3:0]. -/
def fieldN (w : Word) : Nibble := w.extractLsb' 0 4
/-- R71: w[7:0]. -/
def fieldKk (w : Word) : Byte := w.extractLsb' 0 8

/-- R75: whether w[11:8] of a CLS or RET word is accepted. -/
def highNibbleAccepted (m : DecodeMode) (w : Word) : Bool :=
  m == .source || fieldX w == 0#4

/-- The 0x0 group: CLS and RET by the low byte (R74), by the whole word under `strict` (R75), else SYS. -/
def decode0 (m : DecodeMode) (w : Word) : Instr :=
  if fieldKk w = 0xE0#8 ∧ highNibbleAccepted m w then .cls (fieldX w)
  else if fieldKk w = 0xEE#8 ∧ highNibbleAccepted m w then .ret (fieldX w)
  else .sys (fieldNnn w)

/-- The 0x8 group, by w[3:0] (R74). -/
def decode8 (w : Word) : Option Instr :=
  match fieldN w with
  | 0x0#4 => some (.ldReg (fieldX w) (fieldY w))
  | 0x1#4 => some (.orReg (fieldX w) (fieldY w))
  | 0x2#4 => some (.andReg (fieldX w) (fieldY w))
  | 0x3#4 => some (.xorReg (fieldX w) (fieldY w))
  | 0x4#4 => some (.addReg (fieldX w) (fieldY w))
  | 0x5#4 => some (.sub (fieldX w) (fieldY w))
  | 0x6#4 => some (.shr (fieldX w) (fieldY w))
  | 0x7#4 => some (.subn (fieldX w) (fieldY w))
  | 0xE#4 => some (.shl (fieldX w) (fieldY w))
  | _ => none

/-- The 0xE group, by w[7:0] (R74). -/
def decodeE (w : Word) : Option Instr :=
  match fieldKk w with
  | 0x9E#8 => some (.skp (fieldX w))
  | 0xA1#8 => some (.sknp (fieldX w))
  | _ => none

/-- The 0xF group, by w[7:0] (R74). -/
def decodeF (w : Word) : Option Instr :=
  match fieldKk w with
  | 0x07#8 => some (.ldVxDt (fieldX w))
  | 0x0A#8 => some (.ldVxK (fieldX w))
  | 0x15#8 => some (.ldDtVx (fieldX w))
  | 0x18#8 => some (.ldStVx (fieldX w))
  | 0x1E#8 => some (.addIVx (fieldX w))
  | 0x29#8 => some (.ldFVx (fieldX w))
  | 0x33#8 => some (.ldBVx (fieldX w))
  | 0x55#8 => some (.ldMemVx (fieldX w))
  | 0x65#8 => some (.ldVxMem (fieldX w))
  | _ => none

/-- R75: whether w[3:0] of a 5XY_ or 9XY_ word is accepted. -/
def lowNibbleAccepted (m : DecodeMode) (w : Word) : Bool :=
  m == .source || fieldN w == 0#4

/-- The decode map of R74 and R75; none is the arm `Unimplemented(w)`. -/
def decodeClass (m : DecodeMode) (w : Word) : Option Instr :=
  match fieldOp w with
  | 0x0#4 => some (decode0 m w)
  | 0x1#4 => some (.jp (fieldNnn w))
  | 0x2#4 => some (.call (fieldNnn w))
  | 0x3#4 => some (.seImm (fieldX w) (fieldKk w))
  | 0x4#4 => some (.sneImm (fieldX w) (fieldKk w))
  | 0x5#4 => if lowNibbleAccepted m w then some (.seReg (fieldX w) (fieldY w) (fieldN w)) else none
  | 0x6#4 => some (.ldImm (fieldX w) (fieldKk w))
  | 0x7#4 => some (.addImm (fieldX w) (fieldKk w))
  | 0x8#4 => decode8 w
  | 0x9#4 => if lowNibbleAccepted m w then some (.sneReg (fieldX w) (fieldY w) (fieldN w)) else none
  | 0xA#4 => some (.ldI (fieldNnn w))
  | 0xB#4 => some (.jpV0 (fieldNnn w))
  | 0xC#4 => some (.rnd (fieldX w) (fieldKk w))
  | 0xD#4 => some (.drw (fieldX w) (fieldY w) (fieldN w))
  | 0xE#4 => decodeE w
  | _ => decodeF w

/-- The decoder on one word, naming the raw opcode it rejects (R92). -/
def decode (m : DecodeMode) (w : Word) : Except DecodeReject Instr :=
  match decodeClass m w with
  | some i => .ok i
  | none => .error (.unimplemented w)

/-- The word two bytes form, the byte at the lower address being bits 15:8 (R55). -/
def wordOfBytes (hi lo : Byte) : Word := hi ++ lo

/-- The decoder on bytes in address order: the instruction and the bytes after it. -/
def decodeBytes (m : DecodeMode) : List Byte → Except DecodeReject (Instr × List Byte)
  | hi :: lo :: rest =>
    match decode m (wordOfBytes hi lo) with
    | .ok i => .ok (i, rest)
    | .error r => .error r
  | _ => .error .truncated

/-! The encoder. -/

/-- Format A of R73: `oooo nnnn nnnn nnnn`. -/
def formatA (op : Nibble) (nnn : Addr12) : Word := op ++ nnn
/-- Formats XK and XS of R73: `oooo xxxx kkkk kkkk`, the low byte an immediate or a sub-function. -/
def formatXK (op x : Nibble) (kk : Byte) : Word := op ++ x ++ kk
/-- Formats XY and XYN of R73: `oooo xxxx yyyy ffff`, the low nibble a sub-function or a count. -/
def formatXY (op x y n : Nibble) : Word := op ++ x ++ y ++ n

/-- The word of an instruction, from the encoding line of its rule. -/
def encode : Instr → Word
  | .cls x => formatXK 0x0#4 x 0xE0#8
  | .ret x => formatXK 0x0#4 x 0xEE#8
  | .sys nnn => formatA 0x0#4 nnn
  | .jp nnn => formatA 0x1#4 nnn
  | .call nnn => formatA 0x2#4 nnn
  | .seImm x kk => formatXK 0x3#4 x kk
  | .sneImm x kk => formatXK 0x4#4 x kk
  | .seReg x y n => formatXY 0x5#4 x y n
  | .ldImm x kk => formatXK 0x6#4 x kk
  | .addImm x kk => formatXK 0x7#4 x kk
  | .ldReg x y => formatXY 0x8#4 x y 0x0#4
  | .orReg x y => formatXY 0x8#4 x y 0x1#4
  | .andReg x y => formatXY 0x8#4 x y 0x2#4
  | .xorReg x y => formatXY 0x8#4 x y 0x3#4
  | .addReg x y => formatXY 0x8#4 x y 0x4#4
  | .sub x y => formatXY 0x8#4 x y 0x5#4
  | .shr x y => formatXY 0x8#4 x y 0x6#4
  | .subn x y => formatXY 0x8#4 x y 0x7#4
  | .shl x y => formatXY 0x8#4 x y 0xE#4
  | .sneReg x y n => formatXY 0x9#4 x y n
  | .ldI nnn => formatA 0xA#4 nnn
  | .jpV0 nnn => formatA 0xB#4 nnn
  | .rnd x kk => formatXK 0xC#4 x kk
  | .drw x y n => formatXY 0xD#4 x y n
  | .skp x => formatXK 0xE#4 x 0x9E#8
  | .sknp x => formatXK 0xE#4 x 0xA1#8
  | .ldVxDt x => formatXK 0xF#4 x 0x07#8
  | .ldVxK x => formatXK 0xF#4 x 0x0A#8
  | .ldDtVx x => formatXK 0xF#4 x 0x15#8
  | .ldStVx x => formatXK 0xF#4 x 0x18#8
  | .addIVx x => formatXK 0xF#4 x 0x1E#8
  | .ldFVx x => formatXK 0xF#4 x 0x29#8
  | .ldBVx x => formatXK 0xF#4 x 0x33#8
  | .ldMemVx x => formatXK 0xF#4 x 0x55#8
  | .ldVxMem x => formatXK 0xF#4 x 0x65#8

/-- The high byte of a word, which stands at the lower address (R55). -/
def highByte (w : Word) : Byte := w.extractLsb' 8 8
/-- The low byte of a word, which stands at the higher address (R55). -/
def lowByte (w : Word) : Byte := w.extractLsb' 0 8

/-- The two bytes of an instruction in address order (R55). -/
def encodeBytes (i : Instr) : List Byte := [highByte (encode i), lowByte (encode i)]

/-- The opcode word whose low `nbits` bits are `w` and whose other bits are 0, bit 0 the least significant. -/
def tableWord (nbits w : Nat) : Word := BitVec.ofNat 16 (w % 2 ^ nbits)

/-- The decoder on a row of opcode_table.json: the word laid out in memory, high byte first,
and decoded under the default DECODE_MODE. -/
def decodeTableWord (nbits w : Nat) : Option Instr :=
  match decodeBytes defaultParams.decodeMode
      [highByte (tableWord nbits w), lowByte (tableWord nbits w)] with
  | .ok (i, _) => some i
  | .error _ => none

end Sys2Proof
end

