-- ==== Sys2Proof/Machine/State.lean ====
section
/-! DEFINITION. The state of the core as plain data (10_state.md R20), the reasons a step can stop, and the state after reset, which is construction with the defaults and an empty image (70_reset_and_hazards.md R250). -/

namespace Sys2Proof.Machine

/-- The fault kinds of 60_exceptions.md R210. They are recorded in `State.fault`; none of them is an outcome of a step of its own. -/
inductive FaultKind where
  /-- CALL with the stack at capacity. -/
  | stackOverflow
  /-- RET with the stack empty. -/
  | stackUnderflow
  /-- A word that matches no pattern, or SYS under SYS_POLICY = fault. -/
  | unimplementedInstruction
  /-- A fetch, DXYN, FX33 or FX55, FX65 that would reach an address ≥ 0x1000. -/
  | addressOutOfRange
  /-- FX33 or FX55 into the font region under FONT_WRITE = fault. -/
  | readOnlyWrite
deriving DecidableEq, Repr

/-- The fault record of R211. -/
structure FaultRecord where
  kind   : FaultKind
  /-- The address the faulting instruction was fetched from. -/
  pc     : Word
  /-- None only for a fetch fault. -/
  opcode : Option Word
  /-- The address at fault, for AddressOutOfRange and ReadOnlyWrite. -/
  addr   : Option Nat
deriving DecidableEq, Repr

/-- Why a step stops with a fault. -/
inductive Fault where
  /-- Raised by `executeOne` (and so by `step`) when the core has already faulted: a faulted core takes no further step (R217, R90).
  Safe: nothing is claimed of a halted core beyond its frozen state (log 7). -/
  | halted (r : FaultRecord)
deriving DecidableEq, Repr

/-- Why an instruction has no meaning. -/
inductive Refusal where
  /-- Raised by an arm of `exec` whose instruction has no meaning yet. No arm of this model raises it. Safe: nothing is claimed of the instruction. -/
  | notModelled (mnemonic : String)
deriving DecidableEq, Repr

/-- Memory: the cells that differ from what they held at construction, addresses strictly rising (`Memory.wf`, log 17). -/
abbrev Memory := List Host.Cell

/-- The display buffer `fb[x][y]`: 64 columns of 32 pixels, column 0 at the left, row 0 at the top (R36). -/
abbrev Display := Vector (Vector Bool 32) 64

/-- The state of R20, and after it the model's own fields. -/
structure State where
  /-- V0..VF (R21); VF is also the flag register (R22). -/
  v           : Vector Byte 16
  /-- I, the index register (R25). -/
  i           : Word
  /-- PC (R26). -/
  pc          : Word
  /-- The held entries of the call stack, newest first; SP is their number (R31, log 8). -/
  stack       : List Word
  /-- DT, the delay timer (R34). -/
  dt          : Byte
  /-- ST, the sound timer (R34). -/
  st          : Byte
  /-- Memory (R50). -/
  mem         : Memory
  /-- The display buffer (R36). -/
  fb          : Display
  /-- The key latch: some key asserted (R38). -/
  keyAsserted : Bool
  /-- The key latch: the asserted key (R38). -/
  keyCode     : Nibble
  /-- The key-wait status output (R40). -/
  waiting     : Bool
  /-- The halt record (R41). -/
  fault       : Option FaultRecord
  /-- The model's own: the parameters of R4, which no step writes (log 1). -/
  params      : Params
  /-- The model's own: the steps done in the current frame (R95, log 9). -/
  frameSteps  : Nat
  /-- The model's own: the key samples the host has yet to give, next first (R170, log 5). -/
  keyAnswers  : List (Option Nibble)
  /-- The model's own: the random bytes the host has yet to give, next first (R114, log 6). -/
  randomAnswers : List Byte
  /-- The model's own: how many draws were made, the index of the free values of Config (log 5, log 6). -/
  draws       : Nat
deriving DecidableEq, Repr

/-- Every pixel off (R37, R150). -/
def Display.clear : Display := Vector.replicate 64 (Vector.replicate 32 false)

/-- The machine right after construction with the default parameters and an empty image (R250):
V, I, DT, ST at RESET_FILL (DESIGN CHOICE, log 3), PC at START_ADDR, the stack empty, the display off, the latch, `waiting` and `fault` clear,
memory with nothing listed. The model's own fields: a frame begins (log 9) and the host has given no answer in advance (log 5, log 6). -/
def State.reset : State :=
  { v := defaultParams.resetFill.v
    i := defaultParams.resetFill.i
    pc := BitVec.ofNat 16 defaultParams.startAddr
    stack := []
    dt := defaultParams.resetFill.dt
    st := defaultParams.resetFill.st
    mem := []
    fb := Display.clear
    keyAsserted := false
    keyCode := 0#4
    waiting := false
    fault := none
    params := defaultParams
    frameSteps := 0
    keyAnswers := []
    randomAnswers := []
    draws := 0 }

end Sys2Proof.Machine
end

