-- ==== Sys2Proof/Machine/Ops.lean ====
section
/-! DEFINITION. The named operations the meanings are written over: registers, memory, the call stack, the host's draws, completing an instruction, and taking a fault. There is no return from a fault (60_exceptions.md R217): the only way out is a new construction. -/

namespace Sys2Proof.Machine

/-! Writes of one field. -/

/-- `pc <- target` (R6). -/
def State.setPc (s : State) (a : Word) : State := { s with pc := a }
/-- `I <- a` (R6). -/
def State.setI (s : State) (a : Word) : State := { s with i := a }
/-- `DT <- b` (R6). -/
def State.setDt (s : State) (b : Byte) : State := { s with dt := b }
/-- `ST <- b` (R6). -/
def State.setSt (s : State) (b : Byte) : State := { s with st := b }
/-- The call stack becomes `l`, newest entry first (R32). -/
def State.setStack (s : State) (l : List Word) : State := { s with stack := l }
/-- The display buffer becomes `d` (R6). -/
def State.setFb (s : State) (d : Display) : State := { s with fb := d }
/-- `waiting <- w` (R94). -/
def State.setWaiting (s : State) (w : Bool) : State := { s with waiting := w }

/-! General registers. -/

/-- `V[x]` (R6). No register is hardwired (R21). -/
def State.reg (s : State) (x : Nibble) : Byte := s.v[x.toNat]'x.isLt

/-- `V[x] <- b` (R6). -/
def State.setReg (s : State) (x : Nibble) (b : Byte) : State :=
  { s with v := s.v.set x.toNat b x.isLt }

/-- `V[j], V[j+1], ... <- bytes`, in ascending order. -/
def State.setRegs (s : State) (j : Nat) : List Byte → State
  | [] => s
  | b :: rest => (s.setReg (BitVec.ofNat 4 j) b).setRegs (j + 1) rest

/-- The values of V0..Vx in order. -/
def State.regsUpTo (s : State) (x : Nibble) : List Byte :=
  (List.range (x.toNat + 1)).map fun j => s.reg (BitVec.ofNat 4 j)

/-! Memory. `u` gives what an address that the list does not hold reads as. -/

/-- The byte at `a`. -/
def Memory.read (u : Nat → Byte) : Memory → Nat → Byte
  | [], a => u a
  | (a', b) :: rest, a => if a = a' then b else Memory.read u rest a

/-- The list after the byte `b` is written at `a`, in canonical form when `m` is. -/
def Memory.write (u : Nat → Byte) : Memory → Nat → Byte → Memory
  | [], a, b => if b = u a then [] else [(a, b)]
  | (a', b') :: rest, a, b =>
    if a < a' then
      if b = u a then (a', b') :: rest else (a, b) :: (a', b') :: rest
    else if a = a' then
      if b = u a then rest else (a, b) :: rest
    else (a', b') :: Memory.write u rest a b

/-- The canonical form from address `lo` on: addresses strictly rising, inside the address space, and no entry equal to what its address reads as unlisted. -/
def Memory.wfFrom (u : Nat → Byte) : Nat → Memory → Bool
  | _, [] => true
  | lo, (a, b) :: rest =>
    decide (lo ≤ a) && decide (a < memorySize) && b != u a && Memory.wfFrom u (a + 1) rest

/-- The canonical form of memory (log 17). -/
def Memory.wf (u : Nat → Byte) (m : Memory) : Bool := Memory.wfFrom u 0 m

/-- `mem[a]`. -/
def State.readByte (s : State) (a : Nat) : Byte := Memory.read s.params.initialByte s.mem a

/-- `mem[a] <- b`. -/
def State.writeByte (s : State) (a : Nat) (b : Byte) : State :=
  { s with mem := Memory.write s.params.initialByte s.mem a b }

/-- The bytes at `a .. a+n−1` in ascending order (R55). -/
def State.readBytes (s : State) (a n : Nat) : List Byte :=
  (List.range n).map fun k => s.readByte (a + k)

/-- `bytes` written at `a, a+1, ...` in ascending order (R55). -/
def State.writeBytes (s : State) (a : Nat) : List Byte → State
  | [] => s
  | b :: rest => (s.writeByte a b).writeBytes (a + 1) rest

/-- The big-endian word at `a` (R55). -/
def State.readWord (s : State) (a : Nat) : Word := wordOfBytes (s.readByte a) (s.readByte (a + 1))

/-- The lowest address of `base .. base+n−1` outside 0..0xFFF, if any: addresses are naturals without wrap (R56). -/
def outOfRange (base n : Nat) : Option Nat :=
  if 1 ≤ n ∧ memorySize < base + n then some (max base memorySize) else none

/-- What stops a read of `n` bytes at `base` before any write (R56). -/
def checkRead (base n : Nat) : Option (FaultKind × Nat) :=
  (outOfRange base n).map fun a => (.addressOutOfRange, a)

/-- What stops a write of `n` ≥ 1 bytes at `base` before any write: AddressOutOfRange first (R214), then ReadOnlyWrite, whose lowest address is `base` itself (R54). -/
def checkWrite (p : Params) (base n : Nat) : Option (FaultKind × Nat) :=
  match outOfRange base n with
  | some a => some (.addressOutOfRange, a)
  | none => if p.fontWrite = .fault ∧ base < fontEnd then some (.readOnlyWrite, base) else none

/-! The call stack (R32). -/

/-- SP: the number of entries held (R31, log 8). -/
def State.sp (s : State) : Nat := s.stack.length

/-- `stack[j]` for `j` < SP, 0 the oldest (R31); none at and above SP, which no instruction can observe. -/
def State.stackEntry (s : State) (j : Nat) : Option Word := s.stack.reverse[j]?

/-! The host's draws (R93). -/

/-- The answer to the next key sample: the host's next answer, or a free value when none is given in advance (R170, log 5). -/
def State.nextKey (s : State) : Option Nibble :=
  match s.keyAnswers with
  | k :: _ => k
  | [] => Config.keySample s.draws

/-- `sample_keys()`: the answer goes to the key latch (R170). -/
def State.sampleKeys (s : State) : State :=
  { s with
    keyAsserted := s.nextKey.isSome
    keyCode := s.nextKey.getD 0#4
    keyAnswers := s.keyAnswers.tail
    draws := s.draws + 1 }

/-- The latch after a sample holds the key whose code is `b`, compared as whole bytes (R175, D14). -/
def State.keyMatches (s : State) (b : Byte) : Bool :=
  s.keyAsserted && s.keyCode.setWidth 8 == b

/-- The answer of `rand8()`: the host's next byte, or a free value when none is given in advance (R114, log 6). -/
def State.nextRandom (s : State) : Byte :=
  match s.randomAnswers with
  | r :: _ => r
  | [] => Config.randomByte s.draws

/-- The state after `rand8()` has given its answer. -/
def State.drawRandom (s : State) : State :=
  { s with randomAnswers := s.randomAnswers.tail, draws := s.draws + 1 }

/-! Program counter. -/

/-- A skip: PC advanced by a further 2 when the condition holds (R139). -/
def State.skipIf (s : State) (c : Bool) : State :=
  s.setPc (if c then s.pc + 2#16 else s.pc)

/-! Completing an instruction, and taking a fault. -/

/-- An instruction completes; `w` is 1 only for LD Vx, K with no key asserted (R94). -/
def completeWaiting (w : Bool) (s : State) : Host.Outcome State Fault Refusal :=
  .next (s.setWaiting w)

/-- An instruction other than a waiting LD Vx, K completes: `waiting` becomes 0 (R94). -/
def complete (s : State) : Host.Outcome State Fault Refusal := completeWaiting false s

/-- The numeric code of a fault kind (R210; the codes are the spec's own). -/
def FaultKind.code : FaultKind → Nat
  | .stackOverflow => 1
  | .stackUnderflow => 2
  | .unimplementedInstruction => 3
  | .addressOutOfRange => 4
  | .readOnlyWrite => 5

/-- The halt with a record (R211): the record is the only state written (R216). -/
def State.halt (s : State) (r : FaultRecord) : State := { s with fault := some r }

/-- `raise kind(addr)` by the instruction `i`, where `s` is the state it started from, PC being the post-fetch value (R91).
No write of the instruction takes effect, and PC is again the instruction's own address (R212).
A fault is taken as a NEXT state: its entry is the record (log 7). -/
def raise (kind : FaultKind) (addr : Option Nat) (i : Instr) (s : State) : Host.Outcome State Fault Refusal :=
  .next ((s.setPc (s.pc - 2#16)).halt
    { kind := kind, pc := s.pc - 2#16, opcode := some (encode i), addr := addr })

/-- `run` when the check finds nothing, else the fault it found. -/
def guarded (found : Option (FaultKind × Nat)) (i : Instr) (s : State)
    (run : State) : Host.Outcome State Fault Refusal :=
  match found with
  | some (kind, a) => raise kind (some a) i s
  | none => complete run

end Sys2Proof.Machine
end

