-- ==== Sys2Proof/Machine/Construct.lean ====
section
/-! DEFINITION. Construction (70_reset_and_hazards.md R250) and its load check (R251). -/

namespace Sys2Proof.Machine

/-- The load check of R251: START_ADDR in 0x050..0xFFF and an image that fits in the memory from there on. -/
def loadAccepted (p : Params) (image : List Byte) : Bool :=
  decide (fontEnd ≤ p.startAddr) && decide (p.startAddr < memorySize)
    && decide (image.length ≤ memorySize - p.startAddr)

/-- The state before the image is loaded: every step of R250 but the load. -/
def blankCore (p : Params) : State :=
  { v := p.resetFill.v
    i := p.resetFill.i
    pc := BitVec.ofNat 16 p.startAddr
    stack := []
    dt := p.resetFill.dt
    st := p.resetFill.st
    mem := []
    fb := Display.clear
    keyAsserted := false
    keyCode := 0#4
    waiting := false
    fault := none
    params := p
    frameSteps := 0
    keyAnswers := []
    randomAnswers := []
    draws := 0 }

/-- `construct(image, START_ADDR)` of R250; none when the load fails, for then no core exists (R251). -/
def construct (p : Params) (image : List Byte) : Option State :=
  if loadAccepted p image then some ((blankCore p).writeBytes p.startAddr image) else none

end Sys2Proof.Machine
end

