-- ==== Sys2Proof/Machine/Flags.lean ====
section
/-! DEFINITION. The flag computations of 41_arith_logic.md: each from the operand values read before any write, the exact result compared with what 8 bits hold; and the write of result and flag in the order VF_ORDER names (R101). -/

namespace Sys2Proof.Machine

/-- The index of VF (R22). -/
abbrev vf : Nibble := 0xF#4

/-- A flag as a register value, 1 or 0. -/
def flagByte (f : Bool) : Byte := if f then 1#8 else 0#8

/-- The carry of `a + b`: the unconstrained sum exceeds 255 (R108). -/
def carryOf (a b : Byte) : Bool := decide (255 < a.toNat + b.toNat)

/-- The inverse of the borrow of `a - b`: no borrow, that is a ≥ b (R109). -/
def noBorrow (a b : Byte) : Bool := decide (b.toNat ≤ a.toNat)

/-- The bit a right shift by one drops: bit 0 (R110). -/
def lowBit (s : Byte) : Bool := s.getLsbD 0

/-- The bit a left shift by one drops: bit 7 (R112). -/
def highBit (s : Byte) : Bool := s.getLsbD 7

/-- `WriteResultAndFlag(x, r, f)` of R101. The orders differ only when x = 0xF. -/
def State.writeResultAndFlag (s : State) (x : Nibble) (r : Byte) (f : Bool) : State :=
  match s.params.vfOrder with
  | .resultLast => (s.setReg vf (flagByte f)).setReg x r
  | .flagLast => (s.setReg x r).setReg vf (flagByte f)

end Sys2Proof.Machine
end

