-- ==== Sys2Proof/Machine/Operands.lean ====
section
/-! DEFINITION. The operand forms that are more than a register or an immediate as it stands (30_encoding.md R72): addresses, the shift operand, the font digit, the decimal digits, and I after a block transfer. -/

namespace Sys2Proof.Machine

/-- `zext_16(nnn)` (R72). -/
def addrOf (nnn : Addr12) : Word := nnn.setWidth 16

/-- The operand SHR and SHL shift (R113). -/
def State.shiftOperand (s : State) (x y : Nibble) : Byte :=
  match s.params.shiftSource with
  | .vx => s.reg x
  | .vy => s.reg y

/-- The target of JP V0, nnn: nnn plus V0 without a 12-bit mask (R138). -/
def State.indexedTarget (s : State) (nnn : Addr12) : Word := addrOf nnn + (s.reg 0#4).setWidth 16

/-- The digit LD F, Vx takes from Vx (R192). -/
def fontDigitOf (p : Params) (b : Byte) : Byte :=
  match p.fontDigit with
  | .full => b
  | .lowNibble => b &&& 0x0F#8

/-- The address of the glyph of digit `d`: 5 bytes per glyph, base 0x000 (R52, R192). -/
def glyphAddr (d : Byte) : Word := BitVec.ofNat 16 (5 * d.toNat)

/-- The hundreds, tens and ones digits of a byte (R193). -/
def bcdDigits (b : Byte) : List Byte :=
  [BitVec.ofNat 8 (b.toNat / 100), BitVec.ofNat 8 (b.toNat / 10 % 10), BitVec.ofNat 8 (b.toNat % 10)]

/-- The update of I after a transfer of V0..Vx (R194). -/
def State.afterTransfer (s : State) (x : Nibble) : State :=
  match s.params.ldstI with
  | .unchanged => s
  | .advance => s.setI (s.i + x.setWidth 16 + 1#16)

end Sys2Proof.Machine
end

