-- ==== Sys2Proof/Machine/Arith.lean ====
section
/-! DEFINITION. The meanings of 41_arith_logic.md. Each starts from the state after the fetch, PC being the post-fetch value (40_dispatch.md R91). 8-bit arithmetic wraps (R100). -/

namespace Sys2Proof.Machine

/-- LD Vx, kk (R102). -/
def execLdImm (x : Nibble) (kk : Byte) (s : State) : Host.Outcome State Fault Refusal :=
  complete (s.setReg x kk)

/-- ADD Vx, kk (R103): no flag. -/
def execAddImm (x : Nibble) (kk : Byte) (s : State) : Host.Outcome State Fault Refusal :=
  complete (s.setReg x (s.reg x + kk))

/-- LD Vx, Vy (R104). -/
def execLdReg (x y : Nibble) (s : State) : Host.Outcome State Fault Refusal :=
  complete (s.setReg x (s.reg y))

/-- OR Vx, Vy (R105): no flag. -/
def execOrReg (x y : Nibble) (s : State) : Host.Outcome State Fault Refusal :=
  complete (s.setReg x (s.reg x ||| s.reg y))

/-- AND Vx, Vy (R106): no flag. -/
def execAndReg (x y : Nibble) (s : State) : Host.Outcome State Fault Refusal :=
  complete (s.setReg x (s.reg x &&& s.reg y))

/-- XOR Vx, Vy (R107): no flag. -/
def execXorReg (x y : Nibble) (s : State) : Host.Outcome State Fault Refusal :=
  complete (s.setReg x (s.reg x ^^^ s.reg y))

/-- ADD Vx, Vy (R108): VF is the carry. -/
def execAddReg (x y : Nibble) (s : State) : Host.Outcome State Fault Refusal :=
  complete (s.writeResultAndFlag x (s.reg x + s.reg y) (carryOf (s.reg x) (s.reg y)))

/-- SUB Vx, Vy (R109): VF is NOT borrow. -/
def execSub (x y : Nibble) (s : State) : Host.Outcome State Fault Refusal :=
  complete (s.writeResultAndFlag x (s.reg x - s.reg y) (noBorrow (s.reg x) (s.reg y)))

/-- SHR Vx, Vy (R110): VF is the bit shifted out. -/
def execShr (x y : Nibble) (s : State) : Host.Outcome State Fault Refusal :=
  complete (s.writeResultAndFlag x (s.shiftOperand x y >>> 1) (lowBit (s.shiftOperand x y)))

/-- SUBN Vx, Vy (R111): Vy − Vx into Vx, VF is NOT borrow. -/
def execSubn (x y : Nibble) (s : State) : Host.Outcome State Fault Refusal :=
  complete (s.writeResultAndFlag x (s.reg y - s.reg x) (noBorrow (s.reg y) (s.reg x)))

/-- SHL Vx, Vy (R112): VF is the bit shifted out. -/
def execShl (x y : Nibble) (s : State) : Host.Outcome State Fault Refusal :=
  complete (s.writeResultAndFlag x (s.shiftOperand x y <<< 1) (highBit (s.shiftOperand x y)))

/-- RND Vx, kk (R114): the host's byte masked by kk. -/
def execRnd (x : Nibble) (kk : Byte) (s : State) : Host.Outcome State Fault Refusal :=
  complete (s.drawRandom.setReg x (s.nextRandom &&& kk))

end Sys2Proof.Machine
end

