-- ==== Sys2Proof/Machine/Control.lean ====
section
/-! DEFINITION. The meanings of 42_control_flow.md. PC on entry is the post-fetch value (40_dispatch.md R91). No target is aligned or checked when it is written (R139). -/

namespace Sys2Proof.Machine

/-- SYS nnn (R130): UnimplementedInstruction, or no effect, as SYS_POLICY says. -/
def execSys (nnn : Addr12) (s : State) : Host.Outcome State Fault Refusal :=
  match s.params.sysPolicy with
  | .fault => raise .unimplementedInstruction none (.sys nnn) s
  | .nop => complete s

/-- RET (R131, Pop of R32). `x` is the unexamined nibble of its word. -/
def execRet (x : Nibble) (s : State) : Host.Outcome State Fault Refusal :=
  match s.stack with
  | [] => raise .stackUnderflow none (.ret x) s
  | top :: rest => complete ((s.setPc top).setStack rest)

/-- JP nnn (R132). -/
def execJp (nnn : Addr12) (s : State) : Host.Outcome State Fault Refusal :=
  complete (s.setPc (addrOf nnn))

/-- CALL nnn (R133, Push of R32): the post-fetch PC is pushed. -/
def execCall (nnn : Addr12) (s : State) : Host.Outcome State Fault Refusal :=
  if s.sp < s.params.stackDepth then
    complete ((s.setStack (s.pc :: s.stack)).setPc (addrOf nnn))
  else raise .stackOverflow none (.call nnn) s

/-- SE Vx, kk (R134). -/
def execSeImm (x : Nibble) (kk : Byte) (s : State) : Host.Outcome State Fault Refusal :=
  complete (s.skipIf (s.reg x == kk))

/-- SNE Vx, kk (R135). -/
def execSneImm (x : Nibble) (kk : Byte) (s : State) : Host.Outcome State Fault Refusal :=
  complete (s.skipIf (s.reg x != kk))

/-- SE Vx, Vy (R136). -/
def execSeReg (x y : Nibble) (s : State) : Host.Outcome State Fault Refusal :=
  complete (s.skipIf (s.reg x == s.reg y))

/-- SNE Vx, Vy (R137). -/
def execSneReg (x y : Nibble) (s : State) : Host.Outcome State Fault Refusal :=
  complete (s.skipIf (s.reg x != s.reg y))

/-- JP V0, nnn (R138). -/
def execJpV0 (nnn : Addr12) (s : State) : Host.Outcome State Fault Refusal :=
  complete (s.setPc (s.indexedTarget nnn))

end Sys2Proof.Machine
end

