-- ==== Sys2Proof/Machine/Display.lean ====
section
/-! DEFINITION. The display buffer's pixels, the sprite format of 43_display.md R151, and the meanings of CLS and DRW (R150, R152). -/

namespace Sys2Proof.Machine

/-- The pixel at column x mod 64, row y mod 32 (R151: wraparound). -/
def Display.pixel (d : Display) (x y : Nat) : Bool :=
  (d[x % 64]'(Nat.mod_lt _ (by decide)))[y % 32]'(Nat.mod_lt _ (by decide))

/-- The buffer with the pixel at column x mod 64, row y mod 32 toggled (R36, R151). -/
def Display.toggle (d : Display) (x y : Nat) : Display :=
  d.set (x % 64)
    ((d[x % 64]'(Nat.mod_lt _ (by decide))).set (y % 32) (!d.pixel x y) (Nat.mod_lt _ (by decide)))
    (Nat.mod_lt _ (by decide))

/-- The bit of a row byte at column offset `c`: bit 7 is the leftmost pixel (R151, D24). -/
def spriteBit (row : Byte) (c : Nat) : Bool := row.getLsbD (7 - c)

/-- The buffer and whether an already-on pixel was turned off. -/
abbrev Drawn := Display × Bool

/-- One pixel of a sprite: a set bit toggles the pixel at (x, y), a clear bit leaves it (R152). -/
def drawPixel (bit : Bool) (x y : Nat) (a : Drawn) : Drawn :=
  if bit then (a.1.toggle x y, a.2 || a.1.pixel x y) else a

/-- The columns `cs` of one sprite row at row `y`, the sprite's left edge at `px`. -/
def drawColumns (px y : Nat) (row : Byte) : List Nat → Drawn → Drawn
  | [], a => a
  | c :: cs, a => drawColumns px y row cs (drawPixel (spriteBit row c) (px + c) y a)

/-- The rows of a sprite from row `y` down (R152, the loop over r with the loop over c inside). -/
def drawRows (px : Nat) : Nat → List Byte → Drawn → Drawn
  | _, [], a => a
  | y, row :: rows, a => drawRows px (y + 1) rows (drawColumns px y row (List.range 8) a)

/-- CLS (R150). `x` is the unexamined nibble of its word. VF is not written. -/
def execCls (s : State) : Host.Outcome State Fault Refusal :=
  complete (s.setFb Display.clear)

/-- The effect of DRW Vx, Vy, n once every address is in range (R152): Vx and Vy are read before VF is written (R7, D24). -/
def State.drawSprite (s : State) (x y n : Nibble) : State :=
  let d := drawRows (s.reg x).toNat (s.reg y).toNat (s.readBytes s.i.toNat n.toNat) (s.fb, false)
  (s.setFb d.1).setReg vf (flagByte d.2)

/-- DRW Vx, Vy, n (R152). -/
def execDrw (x y n : Nibble) (s : State) : Host.Outcome State Fault Refusal :=
  guarded (checkRead s.i.toNat n.toNat) (.drw x y n) s (s.drawSprite x y n)

end Sys2Proof.Machine
end

