-- ==== Sys2Proof/Machine/IndexMemory.lean ====
section
/-! DEFINITION. The meanings of 45_index_memory.md. Addresses are computed without wrap and all checked before any write, the lowest bad address reported (20_memory.md R56). -/

namespace Sys2Proof.Machine

/-- LD I, nnn (R190). -/
def execLdI (nnn : Addr12) (s : State) : Host.Outcome State Fault Refusal :=
  complete (s.setI (addrOf nnn))

/-- ADD I, Vx (R191): 16-bit wrap, VF not written. -/
def execAddIVx (x : Nibble) (s : State) : Host.Outcome State Fault Refusal :=
  complete (s.setI (s.i + (s.reg x).setWidth 16))

/-- LD F, Vx (R192). -/
def execLdFVx (x : Nibble) (s : State) : Host.Outcome State Fault Refusal :=
  complete (s.setI (glyphAddr (fontDigitOf s.params (s.reg x))))

/-- LD B, Vx (R193): three decimal digits at I, I+1, I+2; I is not changed. -/
def execLdBVx (x : Nibble) (s : State) : Host.Outcome State Fault Refusal :=
  guarded (checkWrite s.params s.i.toNat 3) (.ldBVx x) s
    (s.writeBytes s.i.toNat (bcdDigits (s.reg x)))

/-- LD [I], Vx (R195): V0..Vx to I .. I+x. -/
def execLdMemVx (x : Nibble) (s : State) : Host.Outcome State Fault Refusal :=
  guarded (checkWrite s.params s.i.toNat (x.toNat + 1)) (.ldMemVx x) s
    ((s.writeBytes s.i.toNat (s.regsUpTo x)).afterTransfer x)

/-- LD Vx, [I] (R196): V0..Vx from I .. I+x. -/
def execLdVxMem (x : Nibble) (s : State) : Host.Outcome State Fault Refusal :=
  guarded (checkRead s.i.toNat (x.toNat + 1)) (.ldVxMem x) s
    ((s.setRegs 0 (s.readBytes s.i.toNat (x.toNat + 1))).afterTransfer x)

end Sys2Proof.Machine
end

