-- ==== Sys2Proof/Machine/TimerKey.lean ====
section
/-! DEFINITION. The meanings of 44_timer_key.md. The timer tick is not an instruction; it is in Machine/Frame.lean. -/

namespace Sys2Proof.Machine

/-- LD Vx, DT (R171). -/
def execLdVxDt (x : Nibble) (s : State) : Host.Outcome State Fault Refusal :=
  complete (s.setReg x s.dt)

/-- LD DT, Vx (R172). -/
def execLdDtVx (x : Nibble) (s : State) : Host.Outcome State Fault Refusal :=
  complete (s.setDt (s.reg x))

/-- LD ST, Vx (R173). -/
def execLdStVx (x : Nibble) (s : State) : Host.Outcome State Fault Refusal :=
  complete (s.setSt (s.reg x))

/-- What LD Vx, K does once the latch holds its sample (R174): with a key, its code goes to Vx; with none, Vx keeps its value and PC goes back to the instruction. -/
def State.takeKeyOrRewind (s : State) (x : Nibble) : State :=
  (s.setReg x (if s.keyAsserted then s.keyCode.setWidth 8 else s.reg x)).setPc
    (if s.keyAsserted then s.pc else s.pc - 2#16)

/-- LD Vx, K (R174); `waiting` becomes 1 when no key is asserted (R94). -/
def execLdVxK (x : Nibble) (s : State) : Host.Outcome State Fault Refusal :=
  completeWaiting (!s.sampleKeys.keyAsserted) (s.sampleKeys.takeKeyOrRewind x)

/-- SKP Vx (R175). -/
def execSkp (x : Nibble) (s : State) : Host.Outcome State Fault Refusal :=
  complete (s.sampleKeys.skipIf (s.sampleKeys.keyMatches (s.reg x)))

/-- SKNP Vx (R176). -/
def execSknp (x : Nibble) (s : State) : Host.Outcome State Fault Refusal :=
  complete (s.sampleKeys.skipIf (!s.sampleKeys.keyMatches (s.reg x)))

end Sys2Proof.Machine
end

