-- ==== Sys2Proof/Machine/Execute.lean ====
section
/-! DEFINITION. Fetching an instruction and `execute_one` (40_dispatch.md R90), the two faults raised before an instruction runs, and placing a word where the next fetch reads. -/

namespace Sys2Proof.Machine

/-- The fetch of R90: the big-endian word at PC, PC+1, or none when PC + 1 > 0xFFF. -/
def State.fetch (s : State) : Option Word :=
  if s.pc.toNat + 1 < memorySize then some (s.readWord s.pc.toNat) else none

/-- The record of a fetch fault: no opcode, the lowest out-of-range byte of the fetch (R90). -/
def State.fetchFaultRecord (s : State) : FaultRecord :=
  { kind := .addressOutOfRange, pc := s.pc, opcode := none, addr := some (max s.pc.toNat memorySize) }

/-- The record of an illegal word, naming the raw opcode (R92). -/
def State.illegalRecord (s : State) (w : Word) : FaultRecord :=
  { kind := .unimplementedInstruction, pc := s.pc, opcode := some w, addr := none }

/-- The state after the fetch: PC at the next instruction in sequence (R90). -/
def State.advance (s : State) : State := s.setPc (s.pc + 2#16)

/-- `execute_one` of R90. A faulted core does not step: that ends in the fault `halted` (log 7).
The faults are tried in the order of R214: the fetch, then decode, then the instruction's own. -/
def executeOne (s : State) : Host.Outcome State Fault Refusal :=
  match s.fault with
  | some r => .fault (.halted r)
  | none =>
    match s.fetch with
    | none => .next (s.halt s.fetchFaultRecord)
    | some w =>
      match decode s.params.decodeMode w with
      | .error _ => .next (s.halt (s.illegalRecord w))
      | .ok i => exec i s.advance

/-- The state with the word `w` where the next `execute_one` fetches (log 12, log 13):
the fault record is cleared and a PC that cannot be fetched from is moved to START_ADDR's default, since no fetch happens otherwise. -/
def State.placeFetchWord (s : State) (w : Word) : State :=
  let pc : Word := if s.pc.toNat + 1 < memorySize then s.pc else 0x200#16
  { ((s.writeByte pc.toNat (highByte w)).writeByte (pc.toNat + 1) (lowByte w)) with
    pc := pc
    fault := none }

end Sys2Proof.Machine
end

