-- ==== Sys2Proof/Machine/Frame.lean ====
section
/-! DEFINITION. The timer tick (60_exceptions.md R230, R231), the host's entry point `frame` (40_dispatch.md R95), the place of a single step in its frame, and the outputs (R233). -/

namespace Sys2Proof.Machine

/-- One timer at a tick (R231). -/
def tickTimer (u : TimerUnderflow) (t : Byte) : Byte :=
  if t = 0#8 then
    match u with
    | .hold => 0#8
    | .reload60 => 60#8
  else t - 1#8

/-- `timer_tick()` (R231). -/
def State.timerTick (s : State) : State :=
  { s with
    dt := tickTimer s.params.timerUnderflow s.dt
    st := tickTimer s.params.timerUnderflow s.st }

/-- `repeat k times: execute_one`, aborted by a fault (R95). -/
def runBatch : Nat → State → State
  | 0, s => s
  | k + 1, s =>
    match executeOne s with
    | .next t => if t.fault.isSome then t else runBatch k t
    | .fault _ => s
    | .refused _ => s

/-- `frame` of R95: a batch of IPF steps and, when none faulted, one timer tick. -/
def frame (s : State) : State × Option FaultRecord :=
  match s.fault with
  | some r => (s, some r)
  | none =>
    let t := runBatch s.params.ipf s
    match t.fault with
    | some r => (t, some r)
    | none => (t.timerTick, none)

/-- The step just done is the IPF-th of its frame. -/
def State.endsFrame (s : State) : Bool := decide (s.params.ipf ≤ s.frameSteps + 1)

/-- What follows an `execute_one` in its frame (R95, log 9): nothing when it faulted, for the batch is aborted without a tick;
else the step is counted, and after the IPF-th the timers tick and the next frame begins. -/
def State.afterStep (s : State) : State :=
  let ticks := s.fault.isNone && s.endsFrame
  { s with
    dt := if ticks then s.timerTick.dt else s.dt
    st := if ticks then s.timerTick.st else s.st
    frameSteps := if s.fault.isSome then s.frameSteps else if s.endsFrame then 0 else s.frameSteps + 1 }

/-- One step of the machine: an `execute_one` and what its frame does after it. -/
def stepInFrame (s : State) : Host.Outcome State Fault Refusal :=
  match executeOne s with
  | .next t => .next t.afterStep
  | .fault r => .fault r
  | .refused r => .refused r

/-- `sound_on` (R232). -/
def State.soundOn (s : State) : Bool := s.st != 0#8

/-- The outputs the host reads between frames (R233). -/
structure Outputs where
  fb      : Display
  soundOn : Bool
  waiting : Bool
  fault   : Option FaultRecord
deriving DecidableEq, Repr

/-- The outputs of a state (R233). -/
def State.outputs (s : State) : Outputs :=
  { fb := s.fb, soundOn := s.soundOn, waiting := s.waiting, fault := s.fault }

end Sys2Proof.Machine
end

