-- ==== Sys2Proof/Machine/Step.lean ====
section
/-! DEFINITION. The step of the machine, and the state in which the next step fetches a given word. -/

namespace Sys2Proof.Machine

/-- One step: `execute_one` (40_dispatch.md R90), and the frame's timer tick when it ends its frame (R95, log 9). -/
def step (s : State) : Host.Outcome State Fault Refusal := stepInFrame s

/-- `s` with the instruction whose low `nbits` bits are `w` stored where the next step fetches (log 12, log 13). -/
def State.withFetchWord (s : State) (nbits w : Nat) : State := s.placeFetchWord (tableWord nbits w)

end Sys2Proof.Machine
end

