-- ==== Sys2Proof/Safety.lean ====
section
/-! DEFINITION. What claims mean by a good state: the invariants the spec's rules keep, as decidable predicates; and what it means for parts of two states to agree. -/

namespace Sys2Proof.Machine

/-- The canonical form of the state's memory (log 17). -/
def State.memWf (s : State) : Bool := Memory.wf s.params.initialByte s.mem

/-- PC is in the range R29 and the table of R42 call reachable. -/
def State.pcReachable (s : State) : Bool := decide (s.pc.toNat ≤ 0x10FE)

/-- SP is in 0..STACK_DEPTH (R31) and every entry held is in 0x0002..0x1000 (R42). -/
def State.stackReachable (s : State) : Bool :=
  decide (s.sp ≤ s.params.stackDepth)
    && s.stack.all fun w => decide (2 ≤ w.toNat) && decide (w.toNat ≤ memorySize)

/-- The latch holds a key code only while a key is asserted (R170, R39). -/
def State.latchConsistent (s : State) : Bool := s.keyAsserted || s.keyCode == 0#4

/-- A fault record is the one some faulting instruction at PC wrote (R211, R212): it names PC, it lacks an opcode only for a fetch fault,
and it has an address exactly for the two kinds that record one. -/
def State.recordConsistent (s : State) : Bool :=
  match s.fault with
  | none => true
  | some r =>
    r.pc == s.pc
      && (r.opcode.isSome || r.kind == .addressOutOfRange)
      && (r.addr.isSome == (r.kind == .addressOutOfRange || r.kind == .readOnlyWrite))

/-- The invariant every step keeps. -/
def State.inv (s : State) : Bool :=
  s.params.legal && s.memWf && s.pcReachable && s.stackReachable && s.latchConsistent
    && s.recordConsistent && decide (s.frameSteps < s.params.ipf)

/-- The bytes at PC and PC + 1 are in memory and decode to `i` (R90). -/
def Decodes (s : State) (i : Instr) : Prop :=
  s.pc.toNat + 1 ≤ 0xFFF ∧
    decode s.params.decodeMode (wordOfBytes (s.readByte s.pc.toNat) (s.readByte (s.pc.toNat + 1))) = .ok i

/-- Under the decode mode `m` the words that decode to `i` are those of the value `v` (the encoding line of an instruction rule, its operand fields in place). -/
def EncodedAs (m : DecodeMode) (i : Instr) (v : Nat) : Prop :=
  ∀ w : Word, decode m w = .ok i ↔ w.toNat = v

/-- Every byte of memory reads in `t` as in `s`. -/
def SameBytes (s t : State) : Prop := ∀ a, t.readByte a = s.readByte a

/-- Every byte of memory outside `a .. a+n−1` reads in `t` as in `s`. -/
def SameBytesOutside (s t : State) (a n : Nat) : Prop :=
  ∀ k, k < a ∨ a + n ≤ k → t.readByte k = s.readByte k

/-- The frame of an instruction that writes general registers only: every other part of the state is as before,
except `waiting`, which a completing instruction sets to 0 (R94). -/
def OnlyRegistersChange (s t : State) : Prop :=
  t = { s with v := t.v, waiting := false } ∧ SameBytes s t

/-- The frame of an instruction that writes PC only (and `waiting`, R94). -/
def OnlyPcChanges (s t : State) : Prop :=
  t = { s with pc := t.pc, waiting := false } ∧ SameBytes s t

/-- The frame of an instruction that writes I only (and `waiting`, R94). -/
def OnlyIndexChanges (s t : State) : Prop :=
  t = { s with i := t.i, waiting := false } ∧ SameBytes s t

/-- R101 with R22: the registers after an instruction that writes a result `r` to Vx and a flag `f` to VF.
Where x is 0xF, VF_ORDER says which of the two VF ends holding. -/
def ResultAndFlag (s t : State) (x : Nibble) (r : Nat) (f : Bool) : Prop :=
  (x ≠ vf → (t.reg x).toNat = r ∧ (t.reg vf).toNat = f.toNat) ∧
  (x = vf → s.params.vfOrder = .resultLast → (t.reg vf).toNat = r) ∧
  (x = vf → s.params.vfOrder = .flagLast → (t.reg vf).toNat = f.toNat) ∧
  ∀ j, j ≠ x → j ≠ vf → t.reg j = s.reg j

/-- The state a fault of the instruction `i` leaves, in terms of the state `s` after its fetch: the record, and PC at the instruction (R211, R212). -/
def faulted (s : State) (kind : FaultKind) (addr : Option Nat) (i : Instr) : State :=
  { s with
    pc := s.pc - 2#16
    fault := some { kind := kind, pc := s.pc - 2#16, opcode := some (encode i), addr := addr } }

/-- A sprite of the row bytes at I .. I+n−1 placed at (Vx, Vy) covers the pixel in column X, row Y with a set bit (R151). -/
def Covers (s : State) (x y n : Nibble) (X Y : Nat) : Prop :=
  ∃ r c : Nat, r < n.toNat ∧ c < 8 ∧ (s.readByte (s.i.toNat + r)).getLsbD (7 - c) = true ∧
    X = ((s.reg x).toNat + c) % 64 ∧ Y = ((s.reg y).toNat + r) % 32

/-- R93, R263 in the form the model holds the host's answers (log 5): exactly one key sample is taken from `s` to `t`.
It is the next answer given in advance, which is then gone, or the free value of the count of draws when there is none; the draw is counted, and no random byte is taken. -/
def TakesOneKeySample (s t : State) : Prop :=
  (∀ a rest, s.keyAnswers = a :: rest → s.nextKey = a ∧ t.keyAnswers = rest) ∧
  (s.keyAnswers = [] → s.nextKey = Config.keySample s.draws ∧ t.keyAnswers = []) ∧
  t.draws = s.draws + 1 ∧ t.randomAnswers = s.randomAnswers

/-- `k` instructions complete one after the other from `s` to `t` without a fault (R95). -/
def CompletesSteps : Nat → State → State → Prop
  | 0, s, t => s.fault = none ∧ t = s
  | k + 1, s, t => s.fault = none ∧ ∃ u, executeOne s = .next u ∧ CompletesSteps k u t

/-- While `waiting` is 1 the next instruction is again an LD Vx, K (R40, R174). -/
def WaitsAtKeyRead (s : State) : Prop := s.waiting = true → ∃ x, Decodes s (.ldVxK x)

end Sys2Proof.Machine
end

