-- ==== Sys2Proof/Certificates/Slice0/Obligations.lean ====
section
/-! DEFINITION. The statements for the provers. Each docstring names the rules of spec/ it formalises, and where it rests on a choice of the model it says so. `exec i s` starts from the state after the fetch, so `s.pc` there is the post-fetch PC (40_dispatch.md R91). -/

open Sys2Proof Sys2Proof.Machine

/-! Encoding. -/

/-- Decoding the word of a well-formed instruction gives the instruction back, with every operand, under both decode modes (R71, R73–R75).
That the nibbles `source` does not examine are operands is the model's choice (log 10). -/
def Obligations.DecodeOfEncodeIsInstruction : Prop :=
  ∀ (m : DecodeMode) (i : Instr), WellFormed m i = true → decode m (encode i) = .ok i

/-- A word that decodes is the encoding of what it decodes to, and that is well-formed: no bit is dropped and each word has one meaning (R71, R74, R75; log 10). -/
def Obligations.EncodeOfDecodeIsWord : Prop :=
  ∀ (m : DecodeMode) (w : Word) (i : Instr), decode m w = .ok i → encode i = w ∧ WellFormed m i = true

/-- Words written out from the encodings of R71, R74 and the instruction rules decode to the instructions they stand for, one a family; 6A02, 7A05, 00E0 and F00A are the source's own. -/
def Obligations.WrittenOutWordsDecode : Prop :=
  decode .source 0b0110101000000010#16 = .ok (.ldImm 0xA 0x02) ∧
  decode .source 0b0111101000000101#16 = .ok (.addImm 0xA 0x05) ∧
  decode .source 0b0000000011100000#16 = .ok (.cls 0x0) ∧
  decode .source 0b1111000000001010#16 = .ok (.ldVxK 0x0) ∧
  decode .source 0b1000000100100101#16 = .ok (.sub 0x1 0x2) ∧
  decode .source 0b0010001000001100#16 = .ok (.call 0x20C) ∧
  decode .source 0b1101000000010011#16 = .ok (.drw 0x0 0x1 0x3) ∧
  decode .source 0b1111101100110011#16 = .ok (.ldBVx 0xB)

/-- R77: the illegal words under `source` are exactly those of the 0x8, 0xE and 0xF groups with no sub-function, and executing one raises UnimplementedInstruction naming the raw opcode. -/
def Obligations.IllegalWordsAreExactlyTheListed : Prop :=
  (∀ w : Word, (∀ i, decode .source w ≠ .ok i) ↔
    (w.toNat / 4096 = 0x8 ∧ w.toNat % 16 ∈ [0x8, 0x9, 0xA, 0xB, 0xC, 0xD, 0xF]) ∨
    (w.toNat / 4096 = 0xE ∧ w.toNat % 256 ∉ [0x9E, 0xA1]) ∨
    (w.toNat / 4096 = 0xF ∧
      w.toNat % 256 ∉ [0x07, 0x0A, 0x15, 0x18, 0x1E, 0x29, 0x33, 0x55, 0x65])) ∧
  (∀ s : State, s.fault = none → s.pc.toNat + 1 ≤ 0xFFF →
    (∀ i, decode s.params.decodeMode
      (wordOfBytes (s.readByte s.pc.toNat) (s.readByte (s.pc.toNat + 1))) ≠ .ok i) →
    executeOne s = .next { s with fault := some ⟨.unimplementedInstruction, s.pc,
      some (wordOfBytes (s.readByte s.pc.toNat) (s.readByte (s.pc.toNat + 1))), none⟩ })

/-- R75: `strict` differs from `source` in the 0x0, 0x5 and 0x9 groups only and as stated there, so what it decodes to an instruction other than SYS `source` decodes to the same,
and with SYS_POLICY = fault the execution of every other word faults under `strict`. -/
def Obligations.StrictDecodingRefinesSource : Prop :=
  (∀ w : Word, w.toNat / 4096 = 0x0 → decode .strict w =
    .ok (if w = 0x00E0#16 then .cls 0 else if w = 0x00EE#16 then .ret 0
      else .sys (BitVec.ofNat 12 (w.toNat % 4096)))) ∧
  (∀ w : Word, w.toNat / 4096 = 0x5 → decode .strict w =
    if w.toNat % 16 = 0 then decode .source w else .error (.unimplemented w)) ∧
  (∀ w : Word, w.toNat / 4096 = 0x9 → decode .strict w =
    if w.toNat % 16 = 0 then decode .source w else .error (.unimplemented w)) ∧
  (∀ w : Word, w.toNat / 4096 ∉ [0x0, 0x5, 0x9] → decode .strict w = decode .source w) ∧
  (∀ (w : Word) (i : Instr), decode .strict w = .ok i →
    (∃ nnn, i = .sys nnn) ∨ decode .source w = .ok i) ∧
  (∀ s : State, s.fault = none → s.pc.toNat + 1 ≤ 0xFFF → s.params.decodeMode = .strict →
    s.params.sysPolicy = .fault → (∀ i, Decodes s i → ∃ nnn, i = .sys nnn) →
    ∃ t r, executeOne s = .next t ∧ t.fault = some r ∧ r.kind = .unimplementedInstruction)

/-! The step. -/

/-- A step runs the decoded instruction: when the bytes at PC decode to `i`, `step` is `exec i` on the state whose PC is past the word, and after it the instruction is counted in its frame (R90, R91, R95):
a fault aborts the frame without a tick, the IPF-th instruction is followed by the timer tick, any other one is only counted.
That the tick belongs to the same step is the model's choice (log 9). -/
def Obligations.StepRunsDecodedInstruction : Prop :=
  ∀ (s t : State) (i : Instr), s.fault = none → Decodes s i →
    exec i { s with pc := s.pc + 2#16 } = .next t →
    (t.fault ≠ none → step s = .next t) ∧
    (t.fault = none → t.frameSteps + 1 < t.params.ipf →
      step s = .next { t with frameSteps := t.frameSteps + 1 }) ∧
    (t.fault = none → t.params.ipf ≤ t.frameSteps + 1 →
      step s = .next { t.timerTick with frameSteps := 0 })

/-- R90: a faulted core does not step (that its step is the fault outcome `halted` is the model's choice, log 7); a fetch with PC + 1 > 0xFFF raises AddressOutOfRange with no opcode at max(PC, 0x1000);
else the big-endian word at PC is fetched, PC becomes PC + 2 and the decoded instruction, or the `Unimplemented` arm, is executed. -/
def Obligations.ExecuteOneFetchesDecodesDispatches : Prop :=
  ∀ s : State,
    (∀ r, s.fault = some r → executeOne s = .fault (.halted r)) ∧
    (s.fault = none → 0xFFF < s.pc.toNat + 1 → executeOne s = .next
      { s with fault := some ⟨.addressOutOfRange, s.pc, none, some (max s.pc.toNat 0x1000)⟩ }) ∧
    (s.fault = none → s.pc.toNat + 1 ≤ 0xFFF → ∀ w : Word,
      w.toNat = (s.readByte s.pc.toNat).toNat * 256 + (s.readByte (s.pc.toNat + 1)).toNat →
      (∀ i, decode s.params.decodeMode w = .ok i →
        executeOne s = exec i { s with pc := s.pc + 2#16 }) ∧
      (∀ e, decode s.params.decodeMode w = .error e → executeOne s = .next
        { s with fault := some ⟨.unimplementedInstruction, s.pc, some w, none⟩ }))

/-- Every step of a running core gives a next state, and a step of a faulted core ends in the fault `halted`; no step is refused (R90, R91, R217).
That a halted core's step is a fault outcome is the model's choice (log 7). -/
def Obligations.RunningCoreAlwaysSteps : Prop :=
  ∀ s : State, (s.fault = none → ∃ t, step s = .next t) ∧
    (∀ r, s.fault = some r → step s = .fault (.halted r))

/-- R212: a faulting instruction has no effect on the state other than the record, PC being the instruction's own address; and in a frame that faults, the state is that of the completed instructions plus the record. -/
def Obligations.FaultingInstructionChangesNothingElse : Prop :=
  (∀ (s t : State) (r : FaultRecord), s.fault = none → step s = .next t → t.fault = some r →
    t = { s with fault := some r } ∧ r.pc = s.pc) ∧
  (∀ (s t : State) (r : FaultRecord), s.fault = none → frame s = (t, some r) →
    ∃ (k : Nat) (u : State), k < s.params.ipf ∧ CompletesSteps k s u ∧
      t = { u with fault := some r } ∧ r.pc = u.pc)

/-- R210 with R214: each fault kind is raised exactly by its causes.
The premise on SP is part of the invariant `State.inv` (a stack beyond STACK_DEPTH is not reachable, log 15). -/
def Obligations.FaultKindsHaveExactlyTheirCauses : Prop :=
  ∀ s t : State, s.fault = none → s.sp ≤ s.params.stackDepth → executeOne s = .next t →
    ((∃ r, t.fault = some r ∧ r.kind = .stackOverflow) ↔
      (∃ nnn, Decodes s (.call nnn)) ∧ s.sp = s.params.stackDepth) ∧
    ((∃ r, t.fault = some r ∧ r.kind = .stackUnderflow) ↔
      (∃ x, Decodes s (.ret x)) ∧ s.sp = 0) ∧
    ((∃ r, t.fault = some r ∧ r.kind = .unimplementedInstruction) ↔
      s.pc.toNat + 1 ≤ 0xFFF ∧
        ((∀ i, ¬ Decodes s i) ∨ (∃ nnn, Decodes s (.sys nnn)) ∧ s.params.sysPolicy = .fault)) ∧
    ((∃ r, t.fault = some r ∧ r.kind = .addressOutOfRange) ↔
      0xFFF < s.pc.toNat + 1 ∨
      (∃ x y n : Nibble, Decodes s (.drw x y n) ∧ 1 ≤ n.toNat ∧ 0xFFF < s.i.toNat + n.toNat - 1) ∨
      (∃ x, Decodes s (.ldBVx x) ∧ 0xFFF < s.i.toNat + 2) ∨
      (∃ x : Nibble, Decodes s (.ldMemVx x) ∧ 0xFFF < s.i.toNat + x.toNat) ∨
      (∃ x : Nibble, Decodes s (.ldVxMem x) ∧ 0xFFF < s.i.toNat + x.toNat)) ∧
    ((∃ r, t.fault = some r ∧ r.kind = .readOnlyWrite) ↔
      s.params.fontWrite = .fault ∧ s.i.toNat < 0x050 ∧
        ∃ x, Decodes s (.ldBVx x) ∨ Decodes s (.ldMemVx x))

/-- R211 with the info column of R210: the record names the address the instruction was fetched from and the raw opcode (none only for a fetch fault), and an address for AddressOutOfRange (the lowest one out of range) and ReadOnlyWrite (the lowest font address written) only. -/
def Obligations.FaultRecordNamesInstruction : Prop :=
  ∀ (s t : State) (r : FaultRecord), s.fault = none → executeOne s = .next t → t.fault = some r →
    r.pc = s.pc ∧
    r.opcode = (if s.pc.toNat + 1 ≤ 0xFFF then
      some (wordOfBytes (s.readByte s.pc.toNat) (s.readByte (s.pc.toNat + 1))) else none) ∧
    (r.kind = .addressOutOfRange →
      r.addr = some (if s.pc.toNat + 1 ≤ 0xFFF then max s.i.toNat 0x1000 else max s.pc.toNat 0x1000)) ∧
    (r.kind = .readOnlyWrite → r.addr = some s.i.toNat) ∧
    (r.kind = .stackOverflow ∨ r.kind = .stackUnderflow ∨ r.kind = .unimplementedInstruction →
      r.addr = none)

/-- R217 with R41: a faulted core runs nothing and ticks nothing; later frames return the same record and the same state, and no step clears the record.That a step of a halted core is an outcome `fault` is the model's choice (log 7). -/
def Obligations.FaultedCoreRunsNothing : Prop :=
  ∀ (s : State) (r : FaultRecord), s.fault = some r →
    frame s = (s, some r) ∧ (∀ t, step s ≠ .next t) ∧ ∀ k t, Host.Core.run Sys2Proof.core (k + 1) s ≠ .next t

/-! Frames and timers. -/

/-- R95: a frame runs IPF instructions and then one timer tick; a fault aborts the batch without a tick; a faulted core runs nothing. -/
def Obligations.FrameRunsBatchThenTicks : Prop :=
  ∀ s t : State,
    (frame s = (t, none) ↔ ∃ u, CompletesSteps s.params.ipf s u ∧ t = u.timerTick) ∧
    (∀ r, frame s = (t, some r) ↔ (s.fault = some r ∧ t = s) ∨
      ∃ k u, k < s.params.ipf ∧ CompletesSteps k s u ∧ executeOne u = .next t ∧ t.fault = some r)

/-- From the beginning of a frame, the steps of the machine are the host's `frame` (R95, R230): the state after a frame without a fault is the state IPF steps reach, with the next frame about to begin;
the state after a frame that a fault aborts is the state the faulting step reaches, but for the count of the steps completed before it. The place of the tick in the last step and that count are the model's choice (log 9). -/
def Obligations.StepsOfAFrameAreTheFrame : Prop :=
  ∀ s t : State, s.frameSteps = 0 → 1 ≤ s.params.ipf →
    (frame s = (t, none) → Host.Core.run Sys2Proof.core s.params.ipf s = .next t ∧ t.frameSteps = 0) ∧
    (∀ r, s.fault = none → frame s = (t, some r) →
      ∃ k, k < s.params.ipf ∧ Host.Core.run Sys2Proof.core (k + 1) s = .next { t with frameSteps := k })

/-- R231: the tick of each timer under both values of TIMER_UNDERFLOW; with R230, it changes no other state. -/
def Obligations.TimerTickCountsDown : Prop :=
  ∀ s : State,
    (0 < s.dt.toNat → s.timerTick.dt.toNat = s.dt.toNat - 1) ∧
    (0 < s.st.toNat → s.timerTick.st.toNat = s.st.toNat - 1) ∧
    (s.params.timerUnderflow = .hold →
      (s.dt.toNat = 0 → s.timerTick.dt.toNat = 0) ∧ (s.st.toNat = 0 → s.timerTick.st.toNat = 0)) ∧
    (s.params.timerUnderflow = .reload60 →
      (s.dt.toNat = 0 → s.timerTick.dt.toNat = 60) ∧ (s.st.toNat = 0 → s.timerTick.st.toNat = 60)) ∧
    s.timerTick = { s with dt := s.timerTick.dt, st := s.timerTick.st }

/-! Reset. -/

/-- What construction leaves in the reset state: the values R30, R33, R37, R39, R40, R41 and R53 state.
The zeros of V, I, DT, ST and the free cells are the spec's default of RESET_FILL, a choice (log 3), and the font bytes are its default of FONT_DATA (log 4). -/
def Obligations.ResetStateIsConstruction : Prop :=
  State.reset.pc = 0x200#16 ∧ State.reset.sp = 0 ∧
  (∀ x y, State.reset.fb.pixel x y = false) ∧
  State.reset.keyAsserted = false ∧ State.reset.keyCode = 0#4 ∧
  State.reset.waiting = false ∧ State.reset.fault = none ∧
  (∀ j, State.reset.reg j = 0#8) ∧ State.reset.i = 0#16 ∧ State.reset.dt = 0#8 ∧ State.reset.st = 0#8 ∧
  (∀ a (h : a < 80), State.reset.readByte a = State.reset.params.fontData[a]) ∧
  (∀ a, 80 ≤ a → State.reset.readByte a = 0#8)

/-- R251 and R250: construction succeeds exactly when START_ADDR and the image fit; then the image is in memory verbatim, the font below it, the fill elsewhere, and every other piece of state is as R250 lists. -/
def Obligations.ConstructionLoadsTheImage : Prop :=
  ∀ (p : Params) (image : List Byte),
    ((construct p image).isSome = true ↔
      0x050 ≤ p.startAddr ∧ p.startAddr ≤ 0xFFF ∧ image.length ≤ 4096 - p.startAddr) ∧
    ∀ s, construct p image = some s →
      (∀ k (h : k < image.length), s.readByte (p.startAddr + k) = image[k]) ∧
      (∀ a (h : a < 80), s.readByte a = p.fontData[a]) ∧
      (∀ a, 80 ≤ a → a < p.startAddr ∨ p.startAddr + image.length ≤ a →
        s.readByte a = fillByte p.resetFill.mem a) ∧
      s.v = p.resetFill.v ∧ s.i = p.resetFill.i ∧ s.dt = p.resetFill.dt ∧ s.st = p.resetFill.st ∧
      s.pc.toNat = p.startAddr ∧ s.sp = 0 ∧ (∀ x y, s.fb.pixel x y = false) ∧
      s.keyAsserted = false ∧ s.keyCode = 0#4 ∧ s.waiting = false ∧ s.fault = none ∧ s.params = p

/-! Invariants. -/

/-- Every step keeps the invariant `State.inv`: legal parameters, memory in canonical form, PC at most 0x10FE (R29), SP within STACK_DEPTH and entries in 0x0002..0x1000 (R31, R42), a consistent latch (R170) and record (R211, R212).
That the memory is held in a canonical form is the model's choice (log 17). -/
def Obligations.StepKeepsInvariant : Prop :=
  ∀ s t : State, s.inv = true → step s = .next t → t.inv = true

/-- The invariant holds at reset, and in every core that construction with legal parameters gives. -/
def Obligations.InvariantHoldsAtConstruction : Prop :=
  State.reset.inv = true ∧
  ∀ (p : Params) (image : List Byte) (s : State), p.legal = true → construct p image = some s → s.inv = true

/-- While FONT_WRITE = fault no step changes a byte of 0x000–0x04F (R51, R54). -/
def Obligations.FontIsNeverMutated : Prop :=
  ∀ s t : State, s.params.fontWrite = .fault → step s = .next t →
    ∀ a, a < 0x050 → t.readByte a = s.readByte a

/-- R40, R174: if `waiting` = 1 means that an LD Vx, K decodes at PC, then every step leaves it so; and a step after which `waiting` is 1 leaves PC where it was, with the LD Vx, K that stood there decoding there still, ready to be run again. -/
def Obligations.WaitingCoreRetriesKeyRead : Prop :=
  ∀ s t : State, WaitsAtKeyRead s → step s = .next t →
    WaitsAtKeyRead t ∧
    (t.waiting = true → t.pc = s.pc ∧ ∃ x, Decodes s (.ldVxK x) ∧ Decodes t (.ldVxK x))

/-! Whole-machine rules. -/

/-- Each unit of the state has only the writers the spec gives it: the display CLS and DRW (R36), the stack CALL and RET (R31), memory FX33 and FX55 (R58), the latch the three key instructions (R38), DT FX15 and ST FX18 (R34), I the five of R25; no instruction writes a parameter.
The host's answers are drawn only by the instructions that need them, key samples by the three key instructions and random bytes by RND (R93; that they stand in State is the model's choice, log 5, log 6). -/
def Obligations.UnitsHaveOnlyTheirWriters : Prop :=
  ∀ (i : Instr) (s t : State), exec i s = .next t →
    (t.fb ≠ s.fb → (∃ x, i = .cls x) ∨ ∃ x y n, i = .drw x y n) ∧
    (t.stack ≠ s.stack → (∃ nnn, i = .call nnn) ∨ ∃ x, i = .ret x) ∧
    (¬ SameBytes s t → (∃ x, i = .ldBVx x) ∨ ∃ x, i = .ldMemVx x) ∧
    (t.keyAsserted ≠ s.keyAsserted ∨ t.keyCode ≠ s.keyCode →
      ∃ x, i = .skp x ∨ i = .sknp x ∨ i = .ldVxK x) ∧
    (t.dt ≠ s.dt → ∃ x, i = .ldDtVx x) ∧
    (t.st ≠ s.st → ∃ x, i = .ldStVx x) ∧
    (t.i ≠ s.i → (∃ nnn, i = .ldI nnn) ∨ (∃ x, i = .addIVx x ∨ i = .ldFVx x) ∨
      s.params.ldstI = .advance ∧ ∃ x, i = .ldMemVx x ∨ i = .ldVxMem x) ∧
    (t.keyAnswers ≠ s.keyAnswers → ∃ x, i = .skp x ∨ i = .sknp x ∨ i = .ldVxK x) ∧
    (t.randomAnswers ≠ s.randomAnswers → ∃ x kk, i = .rnd x kk) ∧
    (t.draws ≠ s.draws → ∃ x, i = .skp x ∨ i = .sknp x ∨ i = .ldVxK x ∨ ∃ kk, i = .rnd x kk) ∧
    t.params = s.params

/-- R22 with R23: VF is written as a flag by 8XY4–8XY7, 8XYE and DXYN only; any other instruction writes VF, and any instruction writes another register, only as a destination. -/
def Obligations.RegistersHaveOnlyTheirWriters : Prop :=
  ∀ (i : Instr) (s t : State) (j : Nibble), exec i s = .next t → t.reg j ≠ s.reg j →
    (j = vf ∧ ((∃ x y, i = .addReg x y ∨ i = .sub x y ∨ i = .shr x y ∨ i = .subn x y ∨ i = .shl x y) ∨
      ∃ x y n, i = .drw x y n)) ∨
    (∃ kk, i = .ldImm j kk ∨ i = .addImm j kk ∨ i = .rnd j kk) ∨
    (∃ y, i = .ldReg j y ∨ i = .orReg j y ∨ i = .andReg j y ∨ i = .xorReg j y ∨ i = .addReg j y ∨
      i = .sub j y ∨ i = .shr j y ∨ i = .subn j y ∨ i = .shl j y) ∨
    i = .ldVxDt j ∨ i = .ldVxK j ∨ ∃ x : Nibble, j.toNat ≤ x.toNat ∧ i = .ldVxMem x

/-- R34: ST is read by no instruction. Two states that differ only in ST run every instruction alike, and differ after it at most in ST. -/
def Obligations.SoundTimerIsReadByNoInstruction : Prop :=
  ∀ (i : Instr) (s t : State) (b : Byte), exec i s = .next t →
    ∃ t', exec i { s with st := b } = .next t' ∧ t' = { t with st := t'.st }

/-- R40: `waiting` is read by no instruction and does not change what the next instruction is. Two states that differ only in `waiting` run `execute_one` alike; after it they agree, but for `waiting` itself when the instruction faulted. -/
def Obligations.WaitingIsReadByNoInstruction : Prop :=
  ∀ (s t : State) (b : Bool), executeOne s = .next t →
    ∃ t', executeOne { s with waiting := b } = .next t' ∧ t' = { t with waiting := t'.waiting } ∧
      (t.fault = none → t' = t)

/-- R94: an instruction that completes sets `waiting` to 1 if it is LD Vx, K and no key is asserted, and to 0 in every other case. -/
def Obligations.WaitingFollowsTheCompletedInstruction : Prop :=
  ∀ (i : Instr) (s t : State), s.fault = none → exec i s = .next t → t.fault = none →
    (t.waiting = true ↔ (∃ x, i = .ldVxK x) ∧ t.keyAsserted = false)

/-- R27: what each instruction leaves in PC, all values from the post-fetch PC `s.pc`. -/
def Obligations.EachInstructionLeavesThePcStated : Prop :=
  ∀ (i : Instr) (s t : State), s.fault = none → exec i s = .next t →
    (t.fault ≠ none → t.pc = s.pc - 2#16) ∧
    (t.fault = none → match i with
      | .seImm x kk => t.pc = if (s.reg x).toNat = kk.toNat then s.pc + 2#16 else s.pc
      | .sneImm x kk => t.pc = if (s.reg x).toNat = kk.toNat then s.pc else s.pc + 2#16
      | .seReg x y _ => t.pc = if (s.reg x).toNat = (s.reg y).toNat then s.pc + 2#16 else s.pc
      | .sneReg x y _ => t.pc = if (s.reg x).toNat = (s.reg y).toNat then s.pc else s.pc + 2#16
      | .skp x => t.pc =
          if t.keyAsserted = true ∧ t.keyCode.toNat = (s.reg x).toNat then s.pc + 2#16 else s.pc
      | .sknp x => t.pc =
          if t.keyAsserted = true ∧ t.keyCode.toNat = (s.reg x).toNat then s.pc else s.pc + 2#16
      | .jp nnn => t.pc.toNat = nnn.toNat
      | .call nnn => t.pc.toNat = nnn.toNat ∧ t.stackEntry s.sp = some s.pc
      | .ret _ => s.stackEntry (s.sp - 1) = some t.pc
      | .jpV0 nnn => t.pc.toNat = nnn.toNat + (s.reg 0).toNat
      | .ldVxK _ => t.pc = if t.keyAsserted = true then s.pc else s.pc - 2#16
      | _ => t.pc = s.pc)

/-! Arithmetic and logic (41_arith_logic.md). From here on each statement about an instruction also says which words encode it, under each decode mode (`EncodedAs`). -/

/-- R102, R104–R107: LD Vx, kk; LD Vx, Vy; OR; AND; XOR complete, write Vx bit by bit as stated, no flag, and nothing else. -/
def Obligations.LoadAndLogicResults : Prop :=
  ∀ (s : State) (x y : Nibble) (kk : Byte),
    (∀ m, EncodedAs m (.ldImm x kk) (0x6000 + x.toNat * 256 + kk.toNat) ∧
      EncodedAs m (.ldReg x y) (0x8000 + x.toNat * 256 + y.toNat * 16) ∧
      EncodedAs m (.orReg x y) (0x8001 + x.toNat * 256 + y.toNat * 16) ∧
      EncodedAs m (.andReg x y) (0x8002 + x.toNat * 256 + y.toNat * 16) ∧
      EncodedAs m (.xorReg x y) (0x8003 + x.toNat * 256 + y.toNat * 16)) ∧
    (∃ t, exec (.ldImm x kk) s = .next t ∧ OnlyRegistersChange s t ∧
      ∀ j, t.reg j = if j = x then kk else s.reg j) ∧
    (∃ t, exec (.ldReg x y) s = .next t ∧ OnlyRegistersChange s t ∧
      ∀ j, t.reg j = if j = x then s.reg y else s.reg j) ∧
    (∃ t, exec (.orReg x y) s = .next t ∧ OnlyRegistersChange s t ∧ (∀ j, j ≠ x → t.reg j = s.reg j) ∧
      ∀ k < 8, (t.reg x).getLsbD k = ((s.reg x).getLsbD k || (s.reg y).getLsbD k)) ∧
    (∃ t, exec (.andReg x y) s = .next t ∧ OnlyRegistersChange s t ∧ (∀ j, j ≠ x → t.reg j = s.reg j) ∧
      ∀ k < 8, (t.reg x).getLsbD k = ((s.reg x).getLsbD k && (s.reg y).getLsbD k)) ∧
    (∃ t, exec (.xorReg x y) s = .next t ∧ OnlyRegistersChange s t ∧ (∀ j, j ≠ x → t.reg j = s.reg j) ∧
      ∀ k < 8, (t.reg x).getLsbD k = ((s.reg x).getLsbD k ^^ (s.reg y).getLsbD k))

/-- R103: ADD Vx, kk completes with (vx + kk) mod 256 in Vx and no flag written. -/
def Obligations.AddImmediateWrapsWithoutFlag : Prop :=
  ∀ (s : State) (x : Nibble) (kk : Byte),
    (∀ m, EncodedAs m (.addImm x kk) (0x7000 + x.toNat * 256 + kk.toNat)) ∧
    ∃ t, exec (.addImm x kk) s = .next t ∧ OnlyRegistersChange s t ∧
      (t.reg x).toNat = ((s.reg x).toNat + kk.toNat) % 256 ∧ ∀ j, j ≠ x → t.reg j = s.reg j

/-- R108 with R101: ADD Vx, Vy completes with the wrapped sum in Vx and the carry in VF. -/
def Obligations.AddRegisterSetsCarry : Prop :=
  ∀ (s : State) (x y : Nibble),
    (∀ m, EncodedAs m (.addReg x y) (0x8004 + x.toNat * 256 + y.toNat * 16)) ∧
    ∃ t, exec (.addReg x y) s = .next t ∧ OnlyRegistersChange s t ∧
      ResultAndFlag s t x (((s.reg x).toNat + (s.reg y).toNat) % 256)
        (decide ((s.reg x).toNat + (s.reg y).toNat > 255))

/-- R109, R111 with R101: SUB and SUBN complete with the wrapped difference in Vx and VF = 1 iff minuend ≥ subtrahend. -/
def Obligations.SubtractionsSetNotBorrow : Prop :=
  ∀ (s : State) (x y : Nibble),
    (∀ m, EncodedAs m (.sub x y) (0x8005 + x.toNat * 256 + y.toNat * 16) ∧
      EncodedAs m (.subn x y) (0x8007 + x.toNat * 256 + y.toNat * 16)) ∧
    (∃ t, exec (.sub x y) s = .next t ∧ OnlyRegistersChange s t ∧
      ResultAndFlag s t x (((s.reg x).toNat + 256 - (s.reg y).toNat) % 256)
        (decide ((s.reg x).toNat ≥ (s.reg y).toNat))) ∧
    (∃ t, exec (.subn x y) s = .next t ∧ OnlyRegistersChange s t ∧
      ResultAndFlag s t x (((s.reg y).toNat + 256 - (s.reg x).toNat) % 256)
        (decide ((s.reg y).toNat ≥ (s.reg x).toNat)))

/-- R110, R112, R113 with R101: SHR and SHL complete with the shifted operand in Vx and the bit shifted out in VF; the operand is Vx or Vy as SHIFT_SOURCE says. -/
def Obligations.ShiftsSetBitShiftedOut : Prop :=
  ∀ (s : State) (x y z : Nibble),
    (s.params.shiftSource = .vx ∧ z = x ∨ s.params.shiftSource = .vy ∧ z = y) →
    (∀ m, EncodedAs m (.shr x y) (0x8006 + x.toNat * 256 + y.toNat * 16) ∧
      EncodedAs m (.shl x y) (0x800E + x.toNat * 256 + y.toNat * 16)) ∧
    (∃ t, exec (.shr x y) s = .next t ∧ OnlyRegistersChange s t ∧
      ResultAndFlag s t x ((s.reg z).toNat / 2) (decide ((s.reg z).toNat % 2 = 1))) ∧
    (∃ t, exec (.shl x y) s = .next t ∧ OnlyRegistersChange s t ∧
      ResultAndFlag s t x ((s.reg z).toNat * 2 % 256) (decide (128 ≤ (s.reg z).toNat)))

/-- R114: RND Vx, kk completes with the host's byte masked by kk in Vx, takes exactly one byte from the host (R93), and changes nothing else.
That byte is the next answer given in advance, any byte, or the free value of the count of draws when there is none. How the answers are held is the model's choice (log 6). -/
def Obligations.RandomIsAMaskedDraw : Prop :=
  ∀ (s : State) (x : Nibble) (kk : Byte),
    (∀ m, EncodedAs m (.rnd x kk) (0xC000 + x.toNat * 256 + kk.toNat)) ∧
    (∃ t, exec (.rnd x kk) s = .next t ∧
      t = { s with v := t.v, waiting := false, randomAnswers := t.randomAnswers, draws := s.draws + 1 } ∧
      SameBytes s t ∧ (∀ k < 8, (t.reg x).getLsbD k = (s.nextRandom.getLsbD k && kk.getLsbD k)) ∧
      (∀ j, j ≠ x → t.reg j = s.reg j) ∧
      (∀ r rest, s.randomAnswers = r :: rest → s.nextRandom = r ∧ t.randomAnswers = rest) ∧
      (s.randomAnswers = [] → s.nextRandom = Config.randomByte s.draws ∧ t.randomAnswers = [])) ∧
    ∀ (r : Byte) (rest : List Byte),
      ∃ t, exec (.rnd x kk) { s with randomAnswers := r :: rest } = .next t ∧
        t.reg x = r &&& kk ∧ t.randomAnswers = rest

/-! Control flow (42_control_flow.md). -/

/-- R130: SYS raises UnimplementedInstruction under SYS_POLICY = fault and completes without effect under nop. -/
def Obligations.SysFollowsItsPolicy : Prop :=
  ∀ (s : State) (nnn : Addr12),
    (nnn.toNat % 256 ≠ 0xE0 → nnn.toNat % 256 ≠ 0xEE → EncodedAs .source (.sys nnn) nnn.toNat) ∧
    (s.params.sysPolicy = .nop → ∃ t, exec (.sys nnn) s = .next t ∧
      t = { s with waiting := false } ∧ SameBytes s t) ∧
    (s.params.sysPolicy = .fault →
      exec (.sys nnn) s = .next (faulted s .unimplementedInstruction none (.sys nnn)))

/-- R132, R138: JP nnn and JP V0, nnn complete and write PC only, the second with nnn + V0 unmasked. -/
def Obligations.JumpsWritePcOnly : Prop :=
  ∀ (s : State) (nnn : Addr12),
    (∀ m, EncodedAs m (.jp nnn) (0x1000 + nnn.toNat) ∧ EncodedAs m (.jpV0 nnn) (0xB000 + nnn.toNat)) ∧
    (∃ t, exec (.jp nnn) s = .next t ∧ OnlyPcChanges s t ∧ t.pc.toNat = nnn.toNat) ∧
    (∃ t, exec (.jpV0 nnn) s = .next t ∧ OnlyPcChanges s t ∧ t.pc.toNat = nnn.toNat + (s.reg 0).toNat)

/-- R133 with R32: CALL completes when SP < STACK_DEPTH, pushing the post-fetch PC, and raises StackOverflow when the stack is full. -/
def Obligations.CallPushesOrOverflows : Prop :=
  ∀ (s : State) (nnn : Addr12),
    (∀ m, EncodedAs m (.call nnn) (0x2000 + nnn.toNat)) ∧
    (s.sp < s.params.stackDepth → ∃ t, exec (.call nnn) s = .next t ∧
      t = { s with pc := t.pc, stack := t.stack, waiting := false } ∧ SameBytes s t ∧
      t.pc.toNat = nnn.toNat ∧ t.sp = s.sp + 1 ∧ t.stackEntry s.sp = some s.pc ∧
      ∀ j, j < s.sp → t.stackEntry j = s.stackEntry j) ∧
    (s.sp = s.params.stackDepth →
      exec (.call nnn) s = .next (faulted s .stackOverflow none (.call nnn)))

/-- R131 with R32: RET completes when SP > 0, popping the newest entry into PC, and raises StackUnderflow when the stack is empty. -/
def Obligations.RetPopsOrUnderflows : Prop :=
  ∀ (s : State) (x : Nibble),
    EncodedAs .source (.ret x) (0x00EE + x.toNat * 256) ∧ EncodedAs .strict (.ret 0) 0x00EE ∧
    (0 < s.sp → ∃ t, exec (.ret x) s = .next t ∧
      t = { s with pc := t.pc, stack := t.stack, waiting := false } ∧ SameBytes s t ∧
      s.stackEntry (s.sp - 1) = some t.pc ∧ t.sp = s.sp - 1 ∧
      ∀ j, j < s.sp - 1 → t.stackEntry j = s.stackEntry j) ∧
    (s.sp = 0 → exec (.ret x) s = .next (faulted s .stackUnderflow none (.ret x)))

/-- R139's last sentence, over two steps: a CALL whose target holds a RET leaves PC at the value it had after the CALL's own fetch advance, and the stack as it was. -/
def Obligations.CallThenReturnRestoresPcAndStack : Prop :=
  ∀ (s t u : State) (nnn : Addr12) (x : Nibble), s.fault = none → Decodes s (.call nnn) →
    s.sp < s.params.stackDepth → executeOne s = .next t → Decodes t (.ret x) → executeOne t = .next u →
    u.pc = s.pc + 2#16 ∧ u.stack = s.stack ∧ u.fault = none

/-- R134–R137: the four register skips complete, pass over exactly two more bytes when their condition holds, and write PC only. -/
def Obligations.SkipsPassOverTwoBytes : Prop :=
  ∀ (s : State) (x y n : Nibble) (kk : Byte),
    (∀ m, EncodedAs m (.seImm x kk) (0x3000 + x.toNat * 256 + kk.toNat) ∧
      EncodedAs m (.sneImm x kk) (0x4000 + x.toNat * 256 + kk.toNat)) ∧
    EncodedAs .source (.seReg x y n) (0x5000 + x.toNat * 256 + y.toNat * 16 + n.toNat) ∧
    EncodedAs .source (.sneReg x y n) (0x9000 + x.toNat * 256 + y.toNat * 16 + n.toNat) ∧
    EncodedAs .strict (.seReg x y 0) (0x5000 + x.toNat * 256 + y.toNat * 16) ∧
    EncodedAs .strict (.sneReg x y 0) (0x9000 + x.toNat * 256 + y.toNat * 16) ∧
    (∃ t, exec (.seImm x kk) s = .next t ∧ OnlyPcChanges s t ∧
      t.pc = if (s.reg x).toNat = kk.toNat then s.pc + 2#16 else s.pc) ∧
    (∃ t, exec (.sneImm x kk) s = .next t ∧ OnlyPcChanges s t ∧
      t.pc = if (s.reg x).toNat = kk.toNat then s.pc else s.pc + 2#16) ∧
    (∃ t, exec (.seReg x y n) s = .next t ∧ OnlyPcChanges s t ∧
      t.pc = if (s.reg x).toNat = (s.reg y).toNat then s.pc + 2#16 else s.pc) ∧
    (∃ t, exec (.sneReg x y n) s = .next t ∧ OnlyPcChanges s t ∧
      t.pc = if (s.reg x).toNat = (s.reg y).toNat then s.pc else s.pc + 2#16)

/-! Display (43_display.md). -/

/-- R150: CLS completes, turns every pixel off and writes nothing else, VF included. -/
def Obligations.ClearTurnsEveryPixelOff : Prop :=
  ∀ (s : State) (x : Nibble),
    EncodedAs .source (.cls x) (0x00E0 + x.toNat * 256) ∧ EncodedAs .strict (.cls 0) 0x00E0 ∧ ∃ t, exec (.cls x) s = .next t ∧
    t = { s with fb := t.fb, waiting := false } ∧ SameBytes s t ∧ ∀ X Y, t.fb.pixel X Y = false

/-- R152 with R151: DRW completes when it reads no address beyond 0xFFF; then each pixel is toggled exactly when a set sprite bit lands on it, VF is 1 iff one of those was on, and nothing else changes; else AddressOutOfRange is raised. -/
def Obligations.DrawTogglesCoveredPixels : Prop :=
  ∀ (s : State) (x y n : Nibble),
    (∀ m, EncodedAs m (.drw x y n) (0xD000 + x.toNat * 256 + y.toNat * 16 + n.toNat)) ∧
    (n.toNat = 0 ∨ s.i.toNat + n.toNat - 1 ≤ 0xFFF → ∃ t, exec (.drw x y n) s = .next t ∧
      t = { s with v := t.v, fb := t.fb, waiting := false } ∧ SameBytes s t ∧
      (∀ X Y, X < 64 → Y < 32 → Covers s x y n X Y → t.fb.pixel X Y = !s.fb.pixel X Y) ∧
      (∀ X Y, X < 64 → Y < 32 → ¬ Covers s x y n X Y → t.fb.pixel X Y = s.fb.pixel X Y) ∧
      ((∃ X Y, X < 64 ∧ Y < 32 ∧ Covers s x y n X Y ∧ s.fb.pixel X Y = true) → t.reg vf = 1#8) ∧
      (¬ (∃ X Y, X < 64 ∧ Y < 32 ∧ Covers s x y n X Y ∧ s.fb.pixel X Y = true) → t.reg vf = 0#8) ∧
      ∀ j, j ≠ vf → t.reg j = s.reg j) ∧
    (1 ≤ n.toNat → 0xFFF < s.i.toNat + n.toNat - 1 →
      exec (.drw x y n) s = .next (faulted s .addressOutOfRange (some (max s.i.toNat 0x1000)) (.drw x y n)))

/-- R153: two consecutive identical draws restore the buffer, and the second reports a collision iff the first turned a pixel on. -/
def Obligations.DrawingTwiceRestoresTheDisplay : Prop :=
  ∀ (s t u : State) (x y n : Nibble), x ≠ vf → y ≠ vf → s.fault = none →
    exec (.drw x y n) s = .next t → t.fault = none → exec (.drw x y n) t = .next u →
    u.fault = none ∧ u.fb = s.fb ∧
      (u.reg vf = 1#8 ∨ u.reg vf = 0#8) ∧
      (u.reg vf = 1#8 ↔ ∃ X Y, X < 64 ∧ Y < 32 ∧ s.fb.pixel X Y = false ∧ t.fb.pixel X Y = true) ∧
      (u.reg vf = 1#8 ↔ ∃ X Y, X < 64 ∧ Y < 32 ∧ Covers s x y n X Y ∧ s.fb.pixel X Y = false)

/-! Timers and keys (44_timer_key.md). -/

/-- R171–R173: the three timer copies complete and write their destination only. -/
def Obligations.TimerCopiesWriteTheirDestination : Prop :=
  ∀ (s : State) (x : Nibble),
    (∀ m, EncodedAs m (.ldVxDt x) (0xF007 + x.toNat * 256) ∧ EncodedAs m (.ldDtVx x) (0xF015 + x.toNat * 256) ∧
      EncodedAs m (.ldStVx x) (0xF018 + x.toNat * 256)) ∧
    (∃ t, exec (.ldVxDt x) s = .next t ∧ OnlyRegistersChange s t ∧
      ∀ j, t.reg j = if j = x then s.dt else s.reg j) ∧
    (∃ t, exec (.ldDtVx x) s = .next t ∧ t = { s with dt := t.dt, waiting := false } ∧ SameBytes s t ∧
      t.dt = s.reg x) ∧
    (∃ t, exec (.ldStVx x) s = .next t ∧ t = { s with st := t.st, waiting := false } ∧ SameBytes s t ∧
      t.st = s.reg x)

/-- R174 with R170: LD Vx, K completes and takes exactly one fresh sample from the host (R93, R263), which goes to the latch; with a key its code goes to Vx and `waiting` is 0, with none PC goes back by 2 and `waiting` is 1, so that the retry takes the next sample (R96).
How the host's answers are held is the model's choice (log 5); any answer may come next. -/
def Obligations.KeyReadStoresKeyOrRetries : Prop :=
  ∀ (s : State) (x : Nibble),
    (∀ m, EncodedAs m (.ldVxK x) (0xF00A + x.toNat * 256)) ∧
    (∀ k : Nibble, s.nextKey = some k → ∃ t, exec (.ldVxK x) s = .next t ∧
      t = { s with v := t.v, keyAsserted := true, keyCode := k, waiting := false, keyAnswers := t.keyAnswers, draws := t.draws } ∧ SameBytes s t ∧
      (t.reg x).toNat = k.toNat ∧ (∀ j, j ≠ x → t.reg j = s.reg j) ∧ TakesOneKeySample s t) ∧
    (s.nextKey = none → ∃ t, exec (.ldVxK x) s = .next t ∧
      t = { s with pc := s.pc - 2#16, keyAsserted := false, keyCode := 0#4, waiting := true, keyAnswers := t.keyAnswers, draws := t.draws } ∧ SameBytes s t ∧
      TakesOneKeySample s t) ∧
    ∀ (a : Option Nibble) (rest : List (Option Nibble)),
      ({ s with keyAnswers := a :: rest } : State).nextKey = a

/-- R175, R176 with R170: SKP skips exactly when a key is asserted whose code is the whole value of Vx, SKNP exactly when not; each takes exactly one fresh sample from the host (R93, R263), which goes to the latch, and nothing else changes.
How the host's answers are held is the model's choice (log 5). -/
def Obligations.KeySkipsCompareWholeRegister : Prop :=
  ∀ (s : State) (x : Nibble),
    (∀ m, EncodedAs m (.skp x) (0xE09E + x.toNat * 256) ∧ EncodedAs m (.sknp x) (0xE0A1 + x.toNat * 256)) ∧
    (∃ t, exec (.skp x) s = .next t ∧
      t = { s with pc := t.pc, keyAsserted := t.keyAsserted, keyCode := t.keyCode, waiting := false, keyAnswers := t.keyAnswers, draws := t.draws } ∧ SameBytes s t ∧
      TakesOneKeySample s t ∧
      (∀ k : Nibble, s.nextKey = some k → t.keyAsserted = true ∧ t.keyCode = k ∧
        t.pc = if k.toNat = (s.reg x).toNat then s.pc + 2#16 else s.pc) ∧
      (s.nextKey = none → t.keyAsserted = false ∧ t.keyCode = 0#4 ∧ t.pc = s.pc)) ∧
    (∃ t, exec (.sknp x) s = .next t ∧
      t = { s with pc := t.pc, keyAsserted := t.keyAsserted, keyCode := t.keyCode, waiting := false, keyAnswers := t.keyAnswers, draws := t.draws } ∧ SameBytes s t ∧
      TakesOneKeySample s t ∧
      (∀ k : Nibble, s.nextKey = some k → t.keyAsserted = true ∧ t.keyCode = k ∧
        t.pc = if k.toNat = (s.reg x).toNat then s.pc else s.pc + 2#16) ∧
      (s.nextKey = none → t.keyAsserted = false ∧ t.keyCode = 0#4 ∧ t.pc = s.pc + 2#16))

/-! Index register and memory (45_index_memory.md). -/

/-- R190–R192: LD I, nnn; ADD I, Vx; LD F, Vx complete and write I only. -/
def Obligations.IndexWritesGiveTheirValue : Prop :=
  ∀ (s : State) (x : Nibble) (nnn : Addr12),
    (∀ m, EncodedAs m (.ldI nnn) (0xA000 + nnn.toNat) ∧ EncodedAs m (.addIVx x) (0xF01E + x.toNat * 256) ∧
      EncodedAs m (.ldFVx x) (0xF029 + x.toNat * 256)) ∧
    (∃ t, exec (.ldI nnn) s = .next t ∧ OnlyIndexChanges s t ∧ t.i.toNat = nnn.toNat) ∧
    (∃ t, exec (.addIVx x) s = .next t ∧ OnlyIndexChanges s t ∧
      t.i.toNat = (s.i.toNat + (s.reg x).toNat) % 65536) ∧
    (∃ t, exec (.ldFVx x) s = .next t ∧ OnlyIndexChanges s t ∧
      (s.params.fontDigit = .full → t.i.toNat = 5 * (s.reg x).toNat) ∧
      (s.params.fontDigit = .lowNibble → t.i.toNat = 5 * ((s.reg x).toNat % 16)))

/-- R193 with R54, R56: LD B, Vx completes when I .. I+2 is in memory and not in a read-only font; then the three digits are there and no other byte and no other state changes. Else it raises AddressOutOfRange or ReadOnlyWrite as stated.
The premise and the last clause of the first case, that memory is and stays in canonical form, are the model's choice (log 17), part of the invariant `State.inv`. -/
def Obligations.BcdStoreWritesThreeDigits : Prop :=
  ∀ (s : State) (x : Nibble), s.memWf = true →
    (∀ m, EncodedAs m (.ldBVx x) (0xF033 + x.toNat * 256)) ∧
    (s.i.toNat + 2 ≤ 0xFFF → (s.params.fontWrite = .write ∨ 0x050 ≤ s.i.toNat) →
      ∃ t, exec (.ldBVx x) s = .next t ∧ t = { s with mem := t.mem, waiting := false } ∧
        (t.readByte s.i.toNat).toNat = (s.reg x).toNat / 100 ∧
        (t.readByte (s.i.toNat + 1)).toNat = (s.reg x).toNat / 10 % 10 ∧
        (t.readByte (s.i.toNat + 2)).toNat = (s.reg x).toNat % 10 ∧
        SameBytesOutside s t s.i.toNat 3 ∧ t.memWf = true) ∧
    (0xFFF < s.i.toNat + 2 →
      exec (.ldBVx x) s = .next (faulted s .addressOutOfRange (some (max s.i.toNat 0x1000)) (.ldBVx x))) ∧
    (s.params.fontWrite = .fault → s.i.toNat < 0x050 →
      exec (.ldBVx x) s = .next (faulted s .readOnlyWrite (some s.i.toNat) (.ldBVx x)))

/-- R195 with R194, R54, R56: LD [I], Vx completes when I .. I+x is in memory and not in a read-only font; then V0..Vx are there, no other byte changes, and I is as LDST_I says. Else it raises AddressOutOfRange or ReadOnlyWrite as stated.
The premise and the last clause of the first case, that memory is and stays in canonical form, are the model's choice (log 17), part of the invariant `State.inv`. -/
def Obligations.BlockStoreWritesRegisters : Prop :=
  ∀ (s : State) (x : Nibble), s.memWf = true →
    (∀ m, EncodedAs m (.ldMemVx x) (0xF055 + x.toNat * 256)) ∧
    (s.i.toNat + x.toNat ≤ 0xFFF → (s.params.fontWrite = .write ∨ 0x050 ≤ s.i.toNat) →
      ∃ t, exec (.ldMemVx x) s = .next t ∧ t = { s with mem := t.mem, i := t.i, waiting := false } ∧
        (∀ j : Nibble, j.toNat ≤ x.toNat → t.readByte (s.i.toNat + j.toNat) = s.reg j) ∧
        SameBytesOutside s t s.i.toNat (x.toNat + 1) ∧
        (s.params.ldstI = .unchanged → t.i = s.i) ∧
        (s.params.ldstI = .advance → t.i.toNat = (s.i.toNat + x.toNat + 1) % 65536) ∧ t.memWf = true) ∧
    (0xFFF < s.i.toNat + x.toNat →
      exec (.ldMemVx x) s = .next (faulted s .addressOutOfRange (some (max s.i.toNat 0x1000)) (.ldMemVx x))) ∧
    (s.params.fontWrite = .fault → s.i.toNat < 0x050 →
      exec (.ldMemVx x) s = .next (faulted s .readOnlyWrite (some s.i.toNat) (.ldMemVx x)))

/-- R196 with R194, R56: LD Vx, [I] completes when I .. I+x is in memory; then V0..Vx hold its bytes, no other register and no byte changes, and I is as LDST_I says. Else it raises AddressOutOfRange as stated. -/
def Obligations.BlockLoadReadsRegisters : Prop :=
  ∀ (s : State) (x : Nibble),
    (∀ m, EncodedAs m (.ldVxMem x) (0xF065 + x.toNat * 256)) ∧
    (s.i.toNat + x.toNat ≤ 0xFFF →
      ∃ t, exec (.ldVxMem x) s = .next t ∧ t = { s with v := t.v, i := t.i, waiting := false } ∧
        SameBytes s t ∧
        (∀ j : Nibble, t.reg j =
          if j.toNat ≤ x.toNat then s.readByte (s.i.toNat + j.toNat) else s.reg j) ∧
        (s.params.ldstI = .unchanged → t.i = s.i) ∧
        (s.params.ldstI = .advance → t.i.toNat = (s.i.toNat + x.toNat + 1) % 65536)) ∧
    (0xFFF < s.i.toNat + x.toNat →
      exec (.ldVxMem x) s = .next (faulted s .addressOutOfRange (some (max s.i.toNat 0x1000)) (.ldVxMem x)))

/-- R61: a byte written by FX55 is the byte the next fetch reads. When an LD [I], Vx stores over the word that follows it, the very next instruction fetched is the word stored.
The premise that memory is in canonical form is part of the invariant `State.inv` (log 17, the model's choice). -/
def Obligations.StoreIsSeenByTheNextFetch : Prop :=
  ∀ (s t : State) (x : Nibble), s.memWf = true → s.fault = none → Decodes s (.ldMemVx x) → 1 ≤ x.toNat →
    s.i.toNat = s.pc.toNat + 2 → executeOne s = .next t → t.fault = none →
    t.pc = s.pc + 2#16 ∧ t.fetch = some (wordOfBytes (s.reg 0) (s.reg 1))
end

