-- ==== Sys2Proof/Laws/State.lean ====
section
/-! SUPPORT. What each named update of State leaves in each field, and what the accessors `reg`, `readByte` and `sp` read after it, so that no later proof unfolds an update. -/

namespace Sys2Proof.Machine

/-! `setReg` -/

@[simp] theorem State.setReg_v (s : State) (x : Nibble) (b : Byte) : (s.setReg x b).v = s.v.set x.toNat b x.isLt := rfl
@[simp] theorem State.setReg_i (s : State) (x : Nibble) (b : Byte) : (s.setReg x b).i = s.i := rfl
@[simp] theorem State.setReg_pc (s : State) (x : Nibble) (b : Byte) : (s.setReg x b).pc = s.pc := rfl
@[simp] theorem State.setReg_stack (s : State) (x : Nibble) (b : Byte) : (s.setReg x b).stack = s.stack := rfl
@[simp] theorem State.setReg_dt (s : State) (x : Nibble) (b : Byte) : (s.setReg x b).dt = s.dt := rfl
@[simp] theorem State.setReg_st (s : State) (x : Nibble) (b : Byte) : (s.setReg x b).st = s.st := rfl
@[simp] theorem State.setReg_mem (s : State) (x : Nibble) (b : Byte) : (s.setReg x b).mem = s.mem := rfl
@[simp] theorem State.setReg_fb (s : State) (x : Nibble) (b : Byte) : (s.setReg x b).fb = s.fb := rfl
@[simp] theorem State.setReg_keyAsserted (s : State) (x : Nibble) (b : Byte) : (s.setReg x b).keyAsserted = s.keyAsserted := rfl
@[simp] theorem State.setReg_keyCode (s : State) (x : Nibble) (b : Byte) : (s.setReg x b).keyCode = s.keyCode := rfl
@[simp] theorem State.setReg_waiting (s : State) (x : Nibble) (b : Byte) : (s.setReg x b).waiting = s.waiting := rfl
@[simp] theorem State.setReg_fault (s : State) (x : Nibble) (b : Byte) : (s.setReg x b).fault = s.fault := rfl
@[simp] theorem State.setReg_params (s : State) (x : Nibble) (b : Byte) : (s.setReg x b).params = s.params := rfl
@[simp] theorem State.setReg_frameSteps (s : State) (x : Nibble) (b : Byte) : (s.setReg x b).frameSteps = s.frameSteps := rfl
@[simp] theorem State.setReg_keyAnswers (s : State) (x : Nibble) (b : Byte) : (s.setReg x b).keyAnswers = s.keyAnswers := rfl
@[simp] theorem State.setReg_randomAnswers (s : State) (x : Nibble) (b : Byte) : (s.setReg x b).randomAnswers = s.randomAnswers := rfl
@[simp] theorem State.setReg_draws (s : State) (x : Nibble) (b : Byte) : (s.setReg x b).draws = s.draws := rfl
@[simp] theorem State.setReg_readByte (s : State) (x : Nibble) (b : Byte) (k : Nat) : (s.setReg x b).readByte k = s.readByte k := rfl
@[simp] theorem State.setReg_sp (s : State) (x : Nibble) (b : Byte) : (s.setReg x b).sp = s.sp := rfl

/-! `setPc` -/

@[simp] theorem State.setPc_v (s : State) (a : Word) : (s.setPc a).v = s.v := rfl
@[simp] theorem State.setPc_i (s : State) (a : Word) : (s.setPc a).i = s.i := rfl
@[simp] theorem State.setPc_pc (s : State) (a : Word) : (s.setPc a).pc = a := rfl
@[simp] theorem State.setPc_stack (s : State) (a : Word) : (s.setPc a).stack = s.stack := rfl
@[simp] theorem State.setPc_dt (s : State) (a : Word) : (s.setPc a).dt = s.dt := rfl
@[simp] theorem State.setPc_st (s : State) (a : Word) : (s.setPc a).st = s.st := rfl
@[simp] theorem State.setPc_mem (s : State) (a : Word) : (s.setPc a).mem = s.mem := rfl
@[simp] theorem State.setPc_fb (s : State) (a : Word) : (s.setPc a).fb = s.fb := rfl
@[simp] theorem State.setPc_keyAsserted (s : State) (a : Word) : (s.setPc a).keyAsserted = s.keyAsserted := rfl
@[simp] theorem State.setPc_keyCode (s : State) (a : Word) : (s.setPc a).keyCode = s.keyCode := rfl
@[simp] theorem State.setPc_waiting (s : State) (a : Word) : (s.setPc a).waiting = s.waiting := rfl
@[simp] theorem State.setPc_fault (s : State) (a : Word) : (s.setPc a).fault = s.fault := rfl
@[simp] theorem State.setPc_params (s : State) (a : Word) : (s.setPc a).params = s.params := rfl
@[simp] theorem State.setPc_frameSteps (s : State) (a : Word) : (s.setPc a).frameSteps = s.frameSteps := rfl
@[simp] theorem State.setPc_keyAnswers (s : State) (a : Word) : (s.setPc a).keyAnswers = s.keyAnswers := rfl
@[simp] theorem State.setPc_randomAnswers (s : State) (a : Word) : (s.setPc a).randomAnswers = s.randomAnswers := rfl
@[simp] theorem State.setPc_draws (s : State) (a : Word) : (s.setPc a).draws = s.draws := rfl
@[simp] theorem State.setPc_reg (s : State) (a : Word) (j : Nibble) : (s.setPc a).reg j = s.reg j := rfl
@[simp] theorem State.setPc_readByte (s : State) (a : Word) (k : Nat) : (s.setPc a).readByte k = s.readByte k := rfl
@[simp] theorem State.setPc_sp (s : State) (a : Word) : (s.setPc a).sp = s.sp := rfl

/-! `setI` -/

@[simp] theorem State.setI_v (s : State) (a : Word) : (s.setI a).v = s.v := rfl
@[simp] theorem State.setI_i (s : State) (a : Word) : (s.setI a).i = a := rfl
@[simp] theorem State.setI_pc (s : State) (a : Word) : (s.setI a).pc = s.pc := rfl
@[simp] theorem State.setI_stack (s : State) (a : Word) : (s.setI a).stack = s.stack := rfl
@[simp] theorem State.setI_dt (s : State) (a : Word) : (s.setI a).dt = s.dt := rfl
@[simp] theorem State.setI_st (s : State) (a : Word) : (s.setI a).st = s.st := rfl
@[simp] theorem State.setI_mem (s : State) (a : Word) : (s.setI a).mem = s.mem := rfl
@[simp] theorem State.setI_fb (s : State) (a : Word) : (s.setI a).fb = s.fb := rfl
@[simp] theorem State.setI_keyAsserted (s : State) (a : Word) : (s.setI a).keyAsserted = s.keyAsserted := rfl
@[simp] theorem State.setI_keyCode (s : State) (a : Word) : (s.setI a).keyCode = s.keyCode := rfl
@[simp] theorem State.setI_waiting (s : State) (a : Word) : (s.setI a).waiting = s.waiting := rfl
@[simp] theorem State.setI_fault (s : State) (a : Word) : (s.setI a).fault = s.fault := rfl
@[simp] theorem State.setI_params (s : State) (a : Word) : (s.setI a).params = s.params := rfl
@[simp] theorem State.setI_frameSteps (s : State) (a : Word) : (s.setI a).frameSteps = s.frameSteps := rfl
@[simp] theorem State.setI_keyAnswers (s : State) (a : Word) : (s.setI a).keyAnswers = s.keyAnswers := rfl
@[simp] theorem State.setI_randomAnswers (s : State) (a : Word) : (s.setI a).randomAnswers = s.randomAnswers := rfl
@[simp] theorem State.setI_draws (s : State) (a : Word) : (s.setI a).draws = s.draws := rfl
@[simp] theorem State.setI_reg (s : State) (a : Word) (j : Nibble) : (s.setI a).reg j = s.reg j := rfl
@[simp] theorem State.setI_readByte (s : State) (a : Word) (k : Nat) : (s.setI a).readByte k = s.readByte k := rfl
@[simp] theorem State.setI_sp (s : State) (a : Word) : (s.setI a).sp = s.sp := rfl

/-! `setDt` -/

@[simp] theorem State.setDt_v (s : State) (b : Byte) : (s.setDt b).v = s.v := rfl
@[simp] theorem State.setDt_i (s : State) (b : Byte) : (s.setDt b).i = s.i := rfl
@[simp] theorem State.setDt_pc (s : State) (b : Byte) : (s.setDt b).pc = s.pc := rfl
@[simp] theorem State.setDt_stack (s : State) (b : Byte) : (s.setDt b).stack = s.stack := rfl
@[simp] theorem State.setDt_dt (s : State) (b : Byte) : (s.setDt b).dt = b := rfl
@[simp] theorem State.setDt_st (s : State) (b : Byte) : (s.setDt b).st = s.st := rfl
@[simp] theorem State.setDt_mem (s : State) (b : Byte) : (s.setDt b).mem = s.mem := rfl
@[simp] theorem State.setDt_fb (s : State) (b : Byte) : (s.setDt b).fb = s.fb := rfl
@[simp] theorem State.setDt_keyAsserted (s : State) (b : Byte) : (s.setDt b).keyAsserted = s.keyAsserted := rfl
@[simp] theorem State.setDt_keyCode (s : State) (b : Byte) : (s.setDt b).keyCode = s.keyCode := rfl
@[simp] theorem State.setDt_waiting (s : State) (b : Byte) : (s.setDt b).waiting = s.waiting := rfl
@[simp] theorem State.setDt_fault (s : State) (b : Byte) : (s.setDt b).fault = s.fault := rfl
@[simp] theorem State.setDt_params (s : State) (b : Byte) : (s.setDt b).params = s.params := rfl
@[simp] theorem State.setDt_frameSteps (s : State) (b : Byte) : (s.setDt b).frameSteps = s.frameSteps := rfl
@[simp] theorem State.setDt_keyAnswers (s : State) (b : Byte) : (s.setDt b).keyAnswers = s.keyAnswers := rfl
@[simp] theorem State.setDt_randomAnswers (s : State) (b : Byte) : (s.setDt b).randomAnswers = s.randomAnswers := rfl
@[simp] theorem State.setDt_draws (s : State) (b : Byte) : (s.setDt b).draws = s.draws := rfl
@[simp] theorem State.setDt_reg (s : State) (b : Byte) (j : Nibble) : (s.setDt b).reg j = s.reg j := rfl
@[simp] theorem State.setDt_readByte (s : State) (b : Byte) (k : Nat) : (s.setDt b).readByte k = s.readByte k := rfl
@[simp] theorem State.setDt_sp (s : State) (b : Byte) : (s.setDt b).sp = s.sp := rfl

/-! `setSt` -/

@[simp] theorem State.setSt_v (s : State) (b : Byte) : (s.setSt b).v = s.v := rfl
@[simp] theorem State.setSt_i (s : State) (b : Byte) : (s.setSt b).i = s.i := rfl
@[simp] theorem State.setSt_pc (s : State) (b : Byte) : (s.setSt b).pc = s.pc := rfl
@[simp] theorem State.setSt_stack (s : State) (b : Byte) : (s.setSt b).stack = s.stack := rfl
@[simp] theorem State.setSt_dt (s : State) (b : Byte) : (s.setSt b).dt = s.dt := rfl
@[simp] theorem State.setSt_st (s : State) (b : Byte) : (s.setSt b).st = b := rfl
@[simp] theorem State.setSt_mem (s : State) (b : Byte) : (s.setSt b).mem = s.mem := rfl
@[simp] theorem State.setSt_fb (s : State) (b : Byte) : (s.setSt b).fb = s.fb := rfl
@[simp] theorem State.setSt_keyAsserted (s : State) (b : Byte) : (s.setSt b).keyAsserted = s.keyAsserted := rfl
@[simp] theorem State.setSt_keyCode (s : State) (b : Byte) : (s.setSt b).keyCode = s.keyCode := rfl
@[simp] theorem State.setSt_waiting (s : State) (b : Byte) : (s.setSt b).waiting = s.waiting := rfl
@[simp] theorem State.setSt_fault (s : State) (b : Byte) : (s.setSt b).fault = s.fault := rfl
@[simp] theorem State.setSt_params (s : State) (b : Byte) : (s.setSt b).params = s.params := rfl
@[simp] theorem State.setSt_frameSteps (s : State) (b : Byte) : (s.setSt b).frameSteps = s.frameSteps := rfl
@[simp] theorem State.setSt_keyAnswers (s : State) (b : Byte) : (s.setSt b).keyAnswers = s.keyAnswers := rfl
@[simp] theorem State.setSt_randomAnswers (s : State) (b : Byte) : (s.setSt b).randomAnswers = s.randomAnswers := rfl
@[simp] theorem State.setSt_draws (s : State) (b : Byte) : (s.setSt b).draws = s.draws := rfl
@[simp] theorem State.setSt_reg (s : State) (b : Byte) (j : Nibble) : (s.setSt b).reg j = s.reg j := rfl
@[simp] theorem State.setSt_readByte (s : State) (b : Byte) (k : Nat) : (s.setSt b).readByte k = s.readByte k := rfl
@[simp] theorem State.setSt_sp (s : State) (b : Byte) : (s.setSt b).sp = s.sp := rfl

/-! `setStack` -/

@[simp] theorem State.setStack_v (s : State) (l : List Word) : (s.setStack l).v = s.v := rfl
@[simp] theorem State.setStack_i (s : State) (l : List Word) : (s.setStack l).i = s.i := rfl
@[simp] theorem State.setStack_pc (s : State) (l : List Word) : (s.setStack l).pc = s.pc := rfl
@[simp] theorem State.setStack_stack (s : State) (l : List Word) : (s.setStack l).stack = l := rfl
@[simp] theorem State.setStack_dt (s : State) (l : List Word) : (s.setStack l).dt = s.dt := rfl
@[simp] theorem State.setStack_st (s : State) (l : List Word) : (s.setStack l).st = s.st := rfl
@[simp] theorem State.setStack_mem (s : State) (l : List Word) : (s.setStack l).mem = s.mem := rfl
@[simp] theorem State.setStack_fb (s : State) (l : List Word) : (s.setStack l).fb = s.fb := rfl
@[simp] theorem State.setStack_keyAsserted (s : State) (l : List Word) : (s.setStack l).keyAsserted = s.keyAsserted := rfl
@[simp] theorem State.setStack_keyCode (s : State) (l : List Word) : (s.setStack l).keyCode = s.keyCode := rfl
@[simp] theorem State.setStack_waiting (s : State) (l : List Word) : (s.setStack l).waiting = s.waiting := rfl
@[simp] theorem State.setStack_fault (s : State) (l : List Word) : (s.setStack l).fault = s.fault := rfl
@[simp] theorem State.setStack_params (s : State) (l : List Word) : (s.setStack l).params = s.params := rfl
@[simp] theorem State.setStack_frameSteps (s : State) (l : List Word) : (s.setStack l).frameSteps = s.frameSteps := rfl
@[simp] theorem State.setStack_keyAnswers (s : State) (l : List Word) : (s.setStack l).keyAnswers = s.keyAnswers := rfl
@[simp] theorem State.setStack_randomAnswers (s : State) (l : List Word) : (s.setStack l).randomAnswers = s.randomAnswers := rfl
@[simp] theorem State.setStack_draws (s : State) (l : List Word) : (s.setStack l).draws = s.draws := rfl
@[simp] theorem State.setStack_reg (s : State) (l : List Word) (j : Nibble) : (s.setStack l).reg j = s.reg j := rfl
@[simp] theorem State.setStack_readByte (s : State) (l : List Word) (k : Nat) : (s.setStack l).readByte k = s.readByte k := rfl

/-! `setFb` -/

@[simp] theorem State.setFb_v (s : State) (d : Display) : (s.setFb d).v = s.v := rfl
@[simp] theorem State.setFb_i (s : State) (d : Display) : (s.setFb d).i = s.i := rfl
@[simp] theorem State.setFb_pc (s : State) (d : Display) : (s.setFb d).pc = s.pc := rfl
@[simp] theorem State.setFb_stack (s : State) (d : Display) : (s.setFb d).stack = s.stack := rfl
@[simp] theorem State.setFb_dt (s : State) (d : Display) : (s.setFb d).dt = s.dt := rfl
@[simp] theorem State.setFb_st (s : State) (d : Display) : (s.setFb d).st = s.st := rfl
@[simp] theorem State.setFb_mem (s : State) (d : Display) : (s.setFb d).mem = s.mem := rfl
@[simp] theorem State.setFb_fb (s : State) (d : Display) : (s.setFb d).fb = d := rfl
@[simp] theorem State.setFb_keyAsserted (s : State) (d : Display) : (s.setFb d).keyAsserted = s.keyAsserted := rfl
@[simp] theorem State.setFb_keyCode (s : State) (d : Display) : (s.setFb d).keyCode = s.keyCode := rfl
@[simp] theorem State.setFb_waiting (s : State) (d : Display) : (s.setFb d).waiting = s.waiting := rfl
@[simp] theorem State.setFb_fault (s : State) (d : Display) : (s.setFb d).fault = s.fault := rfl
@[simp] theorem State.setFb_params (s : State) (d : Display) : (s.setFb d).params = s.params := rfl
@[simp] theorem State.setFb_frameSteps (s : State) (d : Display) : (s.setFb d).frameSteps = s.frameSteps := rfl
@[simp] theorem State.setFb_keyAnswers (s : State) (d : Display) : (s.setFb d).keyAnswers = s.keyAnswers := rfl
@[simp] theorem State.setFb_randomAnswers (s : State) (d : Display) : (s.setFb d).randomAnswers = s.randomAnswers := rfl
@[simp] theorem State.setFb_draws (s : State) (d : Display) : (s.setFb d).draws = s.draws := rfl
@[simp] theorem State.setFb_reg (s : State) (d : Display) (j : Nibble) : (s.setFb d).reg j = s.reg j := rfl
@[simp] theorem State.setFb_readByte (s : State) (d : Display) (k : Nat) : (s.setFb d).readByte k = s.readByte k := rfl
@[simp] theorem State.setFb_sp (s : State) (d : Display) : (s.setFb d).sp = s.sp := rfl

/-! `setWaiting` -/

@[simp] theorem State.setWaiting_v (s : State) (w : Bool) : (s.setWaiting w).v = s.v := rfl
@[simp] theorem State.setWaiting_i (s : State) (w : Bool) : (s.setWaiting w).i = s.i := rfl
@[simp] theorem State.setWaiting_pc (s : State) (w : Bool) : (s.setWaiting w).pc = s.pc := rfl
@[simp] theorem State.setWaiting_stack (s : State) (w : Bool) : (s.setWaiting w).stack = s.stack := rfl
@[simp] theorem State.setWaiting_dt (s : State) (w : Bool) : (s.setWaiting w).dt = s.dt := rfl
@[simp] theorem State.setWaiting_st (s : State) (w : Bool) : (s.setWaiting w).st = s.st := rfl
@[simp] theorem State.setWaiting_mem (s : State) (w : Bool) : (s.setWaiting w).mem = s.mem := rfl
@[simp] theorem State.setWaiting_fb (s : State) (w : Bool) : (s.setWaiting w).fb = s.fb := rfl
@[simp] theorem State.setWaiting_keyAsserted (s : State) (w : Bool) : (s.setWaiting w).keyAsserted = s.keyAsserted := rfl
@[simp] theorem State.setWaiting_keyCode (s : State) (w : Bool) : (s.setWaiting w).keyCode = s.keyCode := rfl
@[simp] theorem State.setWaiting_waiting (s : State) (w : Bool) : (s.setWaiting w).waiting = w := rfl
@[simp] theorem State.setWaiting_fault (s : State) (w : Bool) : (s.setWaiting w).fault = s.fault := rfl
@[simp] theorem State.setWaiting_params (s : State) (w : Bool) : (s.setWaiting w).params = s.params := rfl
@[simp] theorem State.setWaiting_frameSteps (s : State) (w : Bool) : (s.setWaiting w).frameSteps = s.frameSteps := rfl
@[simp] theorem State.setWaiting_keyAnswers (s : State) (w : Bool) : (s.setWaiting w).keyAnswers = s.keyAnswers := rfl
@[simp] theorem State.setWaiting_randomAnswers (s : State) (w : Bool) : (s.setWaiting w).randomAnswers = s.randomAnswers := rfl
@[simp] theorem State.setWaiting_draws (s : State) (w : Bool) : (s.setWaiting w).draws = s.draws := rfl
@[simp] theorem State.setWaiting_reg (s : State) (w : Bool) (j : Nibble) : (s.setWaiting w).reg j = s.reg j := rfl
@[simp] theorem State.setWaiting_readByte (s : State) (w : Bool) (k : Nat) : (s.setWaiting w).readByte k = s.readByte k := rfl
@[simp] theorem State.setWaiting_sp (s : State) (w : Bool) : (s.setWaiting w).sp = s.sp := rfl

/-! `halt` -/

@[simp] theorem State.halt_v (s : State) (r : FaultRecord) : (s.halt r).v = s.v := rfl
@[simp] theorem State.halt_i (s : State) (r : FaultRecord) : (s.halt r).i = s.i := rfl
@[simp] theorem State.halt_pc (s : State) (r : FaultRecord) : (s.halt r).pc = s.pc := rfl
@[simp] theorem State.halt_stack (s : State) (r : FaultRecord) : (s.halt r).stack = s.stack := rfl
@[simp] theorem State.halt_dt (s : State) (r : FaultRecord) : (s.halt r).dt = s.dt := rfl
@[simp] theorem State.halt_st (s : State) (r : FaultRecord) : (s.halt r).st = s.st := rfl
@[simp] theorem State.halt_mem (s : State) (r : FaultRecord) : (s.halt r).mem = s.mem := rfl
@[simp] theorem State.halt_fb (s : State) (r : FaultRecord) : (s.halt r).fb = s.fb := rfl
@[simp] theorem State.halt_keyAsserted (s : State) (r : FaultRecord) : (s.halt r).keyAsserted = s.keyAsserted := rfl
@[simp] theorem State.halt_keyCode (s : State) (r : FaultRecord) : (s.halt r).keyCode = s.keyCode := rfl
@[simp] theorem State.halt_waiting (s : State) (r : FaultRecord) : (s.halt r).waiting = s.waiting := rfl
@[simp] theorem State.halt_fault (s : State) (r : FaultRecord) : (s.halt r).fault = some r := rfl
@[simp] theorem State.halt_params (s : State) (r : FaultRecord) : (s.halt r).params = s.params := rfl
@[simp] theorem State.halt_frameSteps (s : State) (r : FaultRecord) : (s.halt r).frameSteps = s.frameSteps := rfl
@[simp] theorem State.halt_keyAnswers (s : State) (r : FaultRecord) : (s.halt r).keyAnswers = s.keyAnswers := rfl
@[simp] theorem State.halt_randomAnswers (s : State) (r : FaultRecord) : (s.halt r).randomAnswers = s.randomAnswers := rfl
@[simp] theorem State.halt_draws (s : State) (r : FaultRecord) : (s.halt r).draws = s.draws := rfl
@[simp] theorem State.halt_reg (s : State) (r : FaultRecord) (j : Nibble) : (s.halt r).reg j = s.reg j := rfl
@[simp] theorem State.halt_readByte (s : State) (r : FaultRecord) (k : Nat) : (s.halt r).readByte k = s.readByte k := rfl
@[simp] theorem State.halt_sp (s : State) (r : FaultRecord) : (s.halt r).sp = s.sp := rfl

/-! `advance` -/

@[simp] theorem State.advance_v (s : State) : (s.advance).v = s.v := rfl
@[simp] theorem State.advance_i (s : State) : (s.advance).i = s.i := rfl
@[simp] theorem State.advance_pc (s : State) : (s.advance).pc = s.pc + 2#16 := rfl
@[simp] theorem State.advance_stack (s : State) : (s.advance).stack = s.stack := rfl
@[simp] theorem State.advance_dt (s : State) : (s.advance).dt = s.dt := rfl
@[simp] theorem State.advance_st (s : State) : (s.advance).st = s.st := rfl
@[simp] theorem State.advance_mem (s : State) : (s.advance).mem = s.mem := rfl
@[simp] theorem State.advance_fb (s : State) : (s.advance).fb = s.fb := rfl
@[simp] theorem State.advance_keyAsserted (s : State) : (s.advance).keyAsserted = s.keyAsserted := rfl
@[simp] theorem State.advance_keyCode (s : State) : (s.advance).keyCode = s.keyCode := rfl
@[simp] theorem State.advance_waiting (s : State) : (s.advance).waiting = s.waiting := rfl
@[simp] theorem State.advance_fault (s : State) : (s.advance).fault = s.fault := rfl
@[simp] theorem State.advance_params (s : State) : (s.advance).params = s.params := rfl
@[simp] theorem State.advance_frameSteps (s : State) : (s.advance).frameSteps = s.frameSteps := rfl
@[simp] theorem State.advance_keyAnswers (s : State) : (s.advance).keyAnswers = s.keyAnswers := rfl
@[simp] theorem State.advance_randomAnswers (s : State) : (s.advance).randomAnswers = s.randomAnswers := rfl
@[simp] theorem State.advance_draws (s : State) : (s.advance).draws = s.draws := rfl
@[simp] theorem State.advance_reg (s : State) (j : Nibble) : (s.advance).reg j = s.reg j := rfl
@[simp] theorem State.advance_readByte (s : State) (k : Nat) : (s.advance).readByte k = s.readByte k := rfl
@[simp] theorem State.advance_sp (s : State) : (s.advance).sp = s.sp := rfl

/-! `skipIf` -/

@[simp] theorem State.skipIf_v (s : State) (c : Bool) : (s.skipIf c).v = s.v := rfl
@[simp] theorem State.skipIf_i (s : State) (c : Bool) : (s.skipIf c).i = s.i := rfl
@[simp] theorem State.skipIf_pc (s : State) (c : Bool) : (s.skipIf c).pc = if c then s.pc + 2#16 else s.pc := rfl
@[simp] theorem State.skipIf_stack (s : State) (c : Bool) : (s.skipIf c).stack = s.stack := rfl
@[simp] theorem State.skipIf_dt (s : State) (c : Bool) : (s.skipIf c).dt = s.dt := rfl
@[simp] theorem State.skipIf_st (s : State) (c : Bool) : (s.skipIf c).st = s.st := rfl
@[simp] theorem State.skipIf_mem (s : State) (c : Bool) : (s.skipIf c).mem = s.mem := rfl
@[simp] theorem State.skipIf_fb (s : State) (c : Bool) : (s.skipIf c).fb = s.fb := rfl
@[simp] theorem State.skipIf_keyAsserted (s : State) (c : Bool) : (s.skipIf c).keyAsserted = s.keyAsserted := rfl
@[simp] theorem State.skipIf_keyCode (s : State) (c : Bool) : (s.skipIf c).keyCode = s.keyCode := rfl
@[simp] theorem State.skipIf_waiting (s : State) (c : Bool) : (s.skipIf c).waiting = s.waiting := rfl
@[simp] theorem State.skipIf_fault (s : State) (c : Bool) : (s.skipIf c).fault = s.fault := rfl
@[simp] theorem State.skipIf_params (s : State) (c : Bool) : (s.skipIf c).params = s.params := rfl
@[simp] theorem State.skipIf_frameSteps (s : State) (c : Bool) : (s.skipIf c).frameSteps = s.frameSteps := rfl
@[simp] theorem State.skipIf_keyAnswers (s : State) (c : Bool) : (s.skipIf c).keyAnswers = s.keyAnswers := rfl
@[simp] theorem State.skipIf_randomAnswers (s : State) (c : Bool) : (s.skipIf c).randomAnswers = s.randomAnswers := rfl
@[simp] theorem State.skipIf_draws (s : State) (c : Bool) : (s.skipIf c).draws = s.draws := rfl
@[simp] theorem State.skipIf_reg (s : State) (c : Bool) (j : Nibble) : (s.skipIf c).reg j = s.reg j := rfl
@[simp] theorem State.skipIf_readByte (s : State) (c : Bool) (k : Nat) : (s.skipIf c).readByte k = s.readByte k := rfl
@[simp] theorem State.skipIf_sp (s : State) (c : Bool) : (s.skipIf c).sp = s.sp := rfl

/-! `sampleKeys` -/

@[simp] theorem State.sampleKeys_v (s : State) : (s.sampleKeys).v = s.v := rfl
@[simp] theorem State.sampleKeys_i (s : State) : (s.sampleKeys).i = s.i := rfl
@[simp] theorem State.sampleKeys_pc (s : State) : (s.sampleKeys).pc = s.pc := rfl
@[simp] theorem State.sampleKeys_stack (s : State) : (s.sampleKeys).stack = s.stack := rfl
@[simp] theorem State.sampleKeys_dt (s : State) : (s.sampleKeys).dt = s.dt := rfl
@[simp] theorem State.sampleKeys_st (s : State) : (s.sampleKeys).st = s.st := rfl
@[simp] theorem State.sampleKeys_mem (s : State) : (s.sampleKeys).mem = s.mem := rfl
@[simp] theorem State.sampleKeys_fb (s : State) : (s.sampleKeys).fb = s.fb := rfl
@[simp] theorem State.sampleKeys_keyAsserted (s : State) : (s.sampleKeys).keyAsserted = s.nextKey.isSome := rfl
@[simp] theorem State.sampleKeys_keyCode (s : State) : (s.sampleKeys).keyCode = s.nextKey.getD 0#4 := rfl
@[simp] theorem State.sampleKeys_waiting (s : State) : (s.sampleKeys).waiting = s.waiting := rfl
@[simp] theorem State.sampleKeys_fault (s : State) : (s.sampleKeys).fault = s.fault := rfl
@[simp] theorem State.sampleKeys_params (s : State) : (s.sampleKeys).params = s.params := rfl
@[simp] theorem State.sampleKeys_frameSteps (s : State) : (s.sampleKeys).frameSteps = s.frameSteps := rfl
@[simp] theorem State.sampleKeys_keyAnswers (s : State) : (s.sampleKeys).keyAnswers = s.keyAnswers.tail := rfl
@[simp] theorem State.sampleKeys_randomAnswers (s : State) : (s.sampleKeys).randomAnswers = s.randomAnswers := rfl
@[simp] theorem State.sampleKeys_draws (s : State) : (s.sampleKeys).draws = s.draws + 1 := rfl
@[simp] theorem State.sampleKeys_reg (s : State) (j : Nibble) : (s.sampleKeys).reg j = s.reg j := rfl
@[simp] theorem State.sampleKeys_readByte (s : State) (k : Nat) : (s.sampleKeys).readByte k = s.readByte k := rfl
@[simp] theorem State.sampleKeys_sp (s : State) : (s.sampleKeys).sp = s.sp := rfl

/-! `drawRandom` -/

@[simp] theorem State.drawRandom_v (s : State) : (s.drawRandom).v = s.v := rfl
@[simp] theorem State.drawRandom_i (s : State) : (s.drawRandom).i = s.i := rfl
@[simp] theorem State.drawRandom_pc (s : State) : (s.drawRandom).pc = s.pc := rfl
@[simp] theorem State.drawRandom_stack (s : State) : (s.drawRandom).stack = s.stack := rfl
@[simp] theorem State.drawRandom_dt (s : State) : (s.drawRandom).dt = s.dt := rfl
@[simp] theorem State.drawRandom_st (s : State) : (s.drawRandom).st = s.st := rfl
@[simp] theorem State.drawRandom_mem (s : State) : (s.drawRandom).mem = s.mem := rfl
@[simp] theorem State.drawRandom_fb (s : State) : (s.drawRandom).fb = s.fb := rfl
@[simp] theorem State.drawRandom_keyAsserted (s : State) : (s.drawRandom).keyAsserted = s.keyAsserted := rfl
@[simp] theorem State.drawRandom_keyCode (s : State) : (s.drawRandom).keyCode = s.keyCode := rfl
@[simp] theorem State.drawRandom_waiting (s : State) : (s.drawRandom).waiting = s.waiting := rfl
@[simp] theorem State.drawRandom_fault (s : State) : (s.drawRandom).fault = s.fault := rfl
@[simp] theorem State.drawRandom_params (s : State) : (s.drawRandom).params = s.params := rfl
@[simp] theorem State.drawRandom_frameSteps (s : State) : (s.drawRandom).frameSteps = s.frameSteps := rfl
@[simp] theorem State.drawRandom_keyAnswers (s : State) : (s.drawRandom).keyAnswers = s.keyAnswers := rfl
@[simp] theorem State.drawRandom_randomAnswers (s : State) : (s.drawRandom).randomAnswers = s.randomAnswers.tail := rfl
@[simp] theorem State.drawRandom_draws (s : State) : (s.drawRandom).draws = s.draws + 1 := rfl
@[simp] theorem State.drawRandom_reg (s : State) (j : Nibble) : (s.drawRandom).reg j = s.reg j := rfl
@[simp] theorem State.drawRandom_readByte (s : State) (k : Nat) : (s.drawRandom).readByte k = s.readByte k := rfl
@[simp] theorem State.drawRandom_sp (s : State) : (s.drawRandom).sp = s.sp := rfl

/-! `takeKeyOrRewind` -/

@[simp] theorem State.takeKeyOrRewind_i (s : State) (x : Nibble) : (s.takeKeyOrRewind x).i = s.i := rfl
@[simp] theorem State.takeKeyOrRewind_pc (s : State) (x : Nibble) : (s.takeKeyOrRewind x).pc = if s.keyAsserted then s.pc else s.pc - 2#16 := rfl
@[simp] theorem State.takeKeyOrRewind_stack (s : State) (x : Nibble) : (s.takeKeyOrRewind x).stack = s.stack := rfl
@[simp] theorem State.takeKeyOrRewind_dt (s : State) (x : Nibble) : (s.takeKeyOrRewind x).dt = s.dt := rfl
@[simp] theorem State.takeKeyOrRewind_st (s : State) (x : Nibble) : (s.takeKeyOrRewind x).st = s.st := rfl
@[simp] theorem State.takeKeyOrRewind_mem (s : State) (x : Nibble) : (s.takeKeyOrRewind x).mem = s.mem := rfl
@[simp] theorem State.takeKeyOrRewind_fb (s : State) (x : Nibble) : (s.takeKeyOrRewind x).fb = s.fb := rfl
@[simp] theorem State.takeKeyOrRewind_keyAsserted (s : State) (x : Nibble) : (s.takeKeyOrRewind x).keyAsserted = s.keyAsserted := rfl
@[simp] theorem State.takeKeyOrRewind_keyCode (s : State) (x : Nibble) : (s.takeKeyOrRewind x).keyCode = s.keyCode := rfl
@[simp] theorem State.takeKeyOrRewind_waiting (s : State) (x : Nibble) : (s.takeKeyOrRewind x).waiting = s.waiting := rfl
@[simp] theorem State.takeKeyOrRewind_fault (s : State) (x : Nibble) : (s.takeKeyOrRewind x).fault = s.fault := rfl
@[simp] theorem State.takeKeyOrRewind_params (s : State) (x : Nibble) : (s.takeKeyOrRewind x).params = s.params := rfl
@[simp] theorem State.takeKeyOrRewind_frameSteps (s : State) (x : Nibble) : (s.takeKeyOrRewind x).frameSteps = s.frameSteps := rfl
@[simp] theorem State.takeKeyOrRewind_keyAnswers (s : State) (x : Nibble) : (s.takeKeyOrRewind x).keyAnswers = s.keyAnswers := rfl
@[simp] theorem State.takeKeyOrRewind_randomAnswers (s : State) (x : Nibble) : (s.takeKeyOrRewind x).randomAnswers = s.randomAnswers := rfl
@[simp] theorem State.takeKeyOrRewind_draws (s : State) (x : Nibble) : (s.takeKeyOrRewind x).draws = s.draws := rfl
@[simp] theorem State.takeKeyOrRewind_readByte (s : State) (x : Nibble) (k : Nat) : (s.takeKeyOrRewind x).readByte k = s.readByte k := rfl
@[simp] theorem State.takeKeyOrRewind_sp (s : State) (x : Nibble) : (s.takeKeyOrRewind x).sp = s.sp := rfl

/-! `writeByte` -/

@[simp] theorem State.writeByte_v (s : State) (a : Nat) (b : Byte) : (s.writeByte a b).v = s.v := rfl
@[simp] theorem State.writeByte_i (s : State) (a : Nat) (b : Byte) : (s.writeByte a b).i = s.i := rfl
@[simp] theorem State.writeByte_pc (s : State) (a : Nat) (b : Byte) : (s.writeByte a b).pc = s.pc := rfl
@[simp] theorem State.writeByte_stack (s : State) (a : Nat) (b : Byte) : (s.writeByte a b).stack = s.stack := rfl
@[simp] theorem State.writeByte_dt (s : State) (a : Nat) (b : Byte) : (s.writeByte a b).dt = s.dt := rfl
@[simp] theorem State.writeByte_st (s : State) (a : Nat) (b : Byte) : (s.writeByte a b).st = s.st := rfl
@[simp] theorem State.writeByte_mem (s : State) (a : Nat) (b : Byte) : (s.writeByte a b).mem = Memory.write s.params.initialByte s.mem a b := rfl
@[simp] theorem State.writeByte_fb (s : State) (a : Nat) (b : Byte) : (s.writeByte a b).fb = s.fb := rfl
@[simp] theorem State.writeByte_keyAsserted (s : State) (a : Nat) (b : Byte) : (s.writeByte a b).keyAsserted = s.keyAsserted := rfl
@[simp] theorem State.writeByte_keyCode (s : State) (a : Nat) (b : Byte) : (s.writeByte a b).keyCode = s.keyCode := rfl
@[simp] theorem State.writeByte_waiting (s : State) (a : Nat) (b : Byte) : (s.writeByte a b).waiting = s.waiting := rfl
@[simp] theorem State.writeByte_fault (s : State) (a : Nat) (b : Byte) : (s.writeByte a b).fault = s.fault := rfl
@[simp] theorem State.writeByte_params (s : State) (a : Nat) (b : Byte) : (s.writeByte a b).params = s.params := rfl
@[simp] theorem State.writeByte_frameSteps (s : State) (a : Nat) (b : Byte) : (s.writeByte a b).frameSteps = s.frameSteps := rfl
@[simp] theorem State.writeByte_keyAnswers (s : State) (a : Nat) (b : Byte) : (s.writeByte a b).keyAnswers = s.keyAnswers := rfl
@[simp] theorem State.writeByte_randomAnswers (s : State) (a : Nat) (b : Byte) : (s.writeByte a b).randomAnswers = s.randomAnswers := rfl
@[simp] theorem State.writeByte_draws (s : State) (a : Nat) (b : Byte) : (s.writeByte a b).draws = s.draws := rfl
@[simp] theorem State.writeByte_reg (s : State) (a : Nat) (b : Byte) (j : Nibble) : (s.writeByte a b).reg j = s.reg j := rfl
@[simp] theorem State.writeByte_sp (s : State) (a : Nat) (b : Byte) : (s.writeByte a b).sp = s.sp := rfl

/-! `writeBytes` -/

@[simp] theorem State.writeBytes_v (s : State) (a : Nat) (bs : List Byte) : (s.writeBytes a bs).v = s.v := by
  induction bs generalizing s a with
  | nil => rfl
  | cons b rest ih => rw [State.writeBytes, ih]; rfl
@[simp] theorem State.writeBytes_i (s : State) (a : Nat) (bs : List Byte) : (s.writeBytes a bs).i = s.i := by
  induction bs generalizing s a with
  | nil => rfl
  | cons b rest ih => rw [State.writeBytes, ih]; rfl
@[simp] theorem State.writeBytes_pc (s : State) (a : Nat) (bs : List Byte) : (s.writeBytes a bs).pc = s.pc := by
  induction bs generalizing s a with
  | nil => rfl
  | cons b rest ih => rw [State.writeBytes, ih]; rfl
@[simp] theorem State.writeBytes_stack (s : State) (a : Nat) (bs : List Byte) : (s.writeBytes a bs).stack = s.stack := by
  induction bs generalizing s a with
  | nil => rfl
  | cons b rest ih => rw [State.writeBytes, ih]; rfl
@[simp] theorem State.writeBytes_dt (s : State) (a : Nat) (bs : List Byte) : (s.writeBytes a bs).dt = s.dt := by
  induction bs generalizing s a with
  | nil => rfl
  | cons b rest ih => rw [State.writeBytes, ih]; rfl
@[simp] theorem State.writeBytes_st (s : State) (a : Nat) (bs : List Byte) : (s.writeBytes a bs).st = s.st := by
  induction bs generalizing s a with
  | nil => rfl
  | cons b rest ih => rw [State.writeBytes, ih]; rfl
@[simp] theorem State.writeBytes_fb (s : State) (a : Nat) (bs : List Byte) : (s.writeBytes a bs).fb = s.fb := by
  induction bs generalizing s a with
  | nil => rfl
  | cons b rest ih => rw [State.writeBytes, ih]; rfl
@[simp] theorem State.writeBytes_keyAsserted (s : State) (a : Nat) (bs : List Byte) : (s.writeBytes a bs).keyAsserted = s.keyAsserted := by
  induction bs generalizing s a with
  | nil => rfl
  | cons b rest ih => rw [State.writeBytes, ih]; rfl
@[simp] theorem State.writeBytes_keyCode (s : State) (a : Nat) (bs : List Byte) : (s.writeBytes a bs).keyCode = s.keyCode := by
  induction bs generalizing s a with
  | nil => rfl
  | cons b rest ih => rw [State.writeBytes, ih]; rfl
@[simp] theorem State.writeBytes_waiting (s : State) (a : Nat) (bs : List Byte) : (s.writeBytes a bs).waiting = s.waiting := by
  induction bs generalizing s a with
  | nil => rfl
  | cons b rest ih => rw [State.writeBytes, ih]; rfl
@[simp] theorem State.writeBytes_fault (s : State) (a : Nat) (bs : List Byte) : (s.writeBytes a bs).fault = s.fault := by
  induction bs generalizing s a with
  | nil => rfl
  | cons b rest ih => rw [State.writeBytes, ih]; rfl
@[simp] theorem State.writeBytes_params (s : State) (a : Nat) (bs : List Byte) : (s.writeBytes a bs).params = s.params := by
  induction bs generalizing s a with
  | nil => rfl
  | cons b rest ih => rw [State.writeBytes, ih]; rfl
@[simp] theorem State.writeBytes_frameSteps (s : State) (a : Nat) (bs : List Byte) : (s.writeBytes a bs).frameSteps = s.frameSteps := by
  induction bs generalizing s a with
  | nil => rfl
  | cons b rest ih => rw [State.writeBytes, ih]; rfl
@[simp] theorem State.writeBytes_keyAnswers (s : State) (a : Nat) (bs : List Byte) : (s.writeBytes a bs).keyAnswers = s.keyAnswers := by
  induction bs generalizing s a with
  | nil => rfl
  | cons b rest ih => rw [State.writeBytes, ih]; rfl
@[simp] theorem State.writeBytes_randomAnswers (s : State) (a : Nat) (bs : List Byte) : (s.writeBytes a bs).randomAnswers = s.randomAnswers := by
  induction bs generalizing s a with
  | nil => rfl
  | cons b rest ih => rw [State.writeBytes, ih]; rfl
@[simp] theorem State.writeBytes_draws (s : State) (a : Nat) (bs : List Byte) : (s.writeBytes a bs).draws = s.draws := by
  induction bs generalizing s a with
  | nil => rfl
  | cons b rest ih => rw [State.writeBytes, ih]; rfl
@[simp] theorem State.writeBytes_reg (s : State) (a : Nat) (bs : List Byte) (j : Nibble) : (s.writeBytes a bs).reg j = s.reg j := by
  simp only [State.reg, State.writeBytes_v]
@[simp] theorem State.writeBytes_sp (s : State) (a : Nat) (bs : List Byte) : (s.writeBytes a bs).sp = s.sp := by
  simp only [State.sp, State.writeBytes_stack]

/-! `setRegs` -/

@[simp] theorem State.setRegs_i (s : State) (j : Nat) (bs : List Byte) : (s.setRegs j bs).i = s.i := by
  induction bs generalizing s j with
  | nil => rfl
  | cons b rest ih => rw [State.setRegs, ih]; rfl
@[simp] theorem State.setRegs_pc (s : State) (j : Nat) (bs : List Byte) : (s.setRegs j bs).pc = s.pc := by
  induction bs generalizing s j with
  | nil => rfl
  | cons b rest ih => rw [State.setRegs, ih]; rfl
@[simp] theorem State.setRegs_stack (s : State) (j : Nat) (bs : List Byte) : (s.setRegs j bs).stack = s.stack := by
  induction bs generalizing s j with
  | nil => rfl
  | cons b rest ih => rw [State.setRegs, ih]; rfl
@[simp] theorem State.setRegs_dt (s : State) (j : Nat) (bs : List Byte) : (s.setRegs j bs).dt = s.dt := by
  induction bs generalizing s j with
  | nil => rfl
  | cons b rest ih => rw [State.setRegs, ih]; rfl
@[simp] theorem State.setRegs_st (s : State) (j : Nat) (bs : List Byte) : (s.setRegs j bs).st = s.st := by
  induction bs generalizing s j with
  | nil => rfl
  | cons b rest ih => rw [State.setRegs, ih]; rfl
@[simp] theorem State.setRegs_mem (s : State) (j : Nat) (bs : List Byte) : (s.setRegs j bs).mem = s.mem := by
  induction bs generalizing s j with
  | nil => rfl
  | cons b rest ih => rw [State.setRegs, ih]; rfl
@[simp] theorem State.setRegs_fb (s : State) (j : Nat) (bs : List Byte) : (s.setRegs j bs).fb = s.fb := by
  induction bs generalizing s j with
  | nil => rfl
  | cons b rest ih => rw [State.setRegs, ih]; rfl
@[simp] theorem State.setRegs_keyAsserted (s : State) (j : Nat) (bs : List Byte) : (s.setRegs j bs).keyAsserted = s.keyAsserted := by
  induction bs generalizing s j with
  | nil => rfl
  | cons b rest ih => rw [State.setRegs, ih]; rfl
@[simp] theorem State.setRegs_keyCode (s : State) (j : Nat) (bs : List Byte) : (s.setRegs j bs).keyCode = s.keyCode := by
  induction bs generalizing s j with
  | nil => rfl
  | cons b rest ih => rw [State.setRegs, ih]; rfl
@[simp] theorem State.setRegs_waiting (s : State) (j : Nat) (bs : List Byte) : (s.setRegs j bs).waiting = s.waiting := by
  induction bs generalizing s j with
  | nil => rfl
  | cons b rest ih => rw [State.setRegs, ih]; rfl
@[simp] theorem State.setRegs_fault (s : State) (j : Nat) (bs : List Byte) : (s.setRegs j bs).fault = s.fault := by
  induction bs generalizing s j with
  | nil => rfl
  | cons b rest ih => rw [State.setRegs, ih]; rfl
@[simp] theorem State.setRegs_params (s : State) (j : Nat) (bs : List Byte) : (s.setRegs j bs).params = s.params := by
  induction bs generalizing s j with
  | nil => rfl
  | cons b rest ih => rw [State.setRegs, ih]; rfl
@[simp] theorem State.setRegs_frameSteps (s : State) (j : Nat) (bs : List Byte) : (s.setRegs j bs).frameSteps = s.frameSteps := by
  induction bs generalizing s j with
  | nil => rfl
  | cons b rest ih => rw [State.setRegs, ih]; rfl
@[simp] theorem State.setRegs_keyAnswers (s : State) (j : Nat) (bs : List Byte) : (s.setRegs j bs).keyAnswers = s.keyAnswers := by
  induction bs generalizing s j with
  | nil => rfl
  | cons b rest ih => rw [State.setRegs, ih]; rfl
@[simp] theorem State.setRegs_randomAnswers (s : State) (j : Nat) (bs : List Byte) : (s.setRegs j bs).randomAnswers = s.randomAnswers := by
  induction bs generalizing s j with
  | nil => rfl
  | cons b rest ih => rw [State.setRegs, ih]; rfl
@[simp] theorem State.setRegs_draws (s : State) (j : Nat) (bs : List Byte) : (s.setRegs j bs).draws = s.draws := by
  induction bs generalizing s j with
  | nil => rfl
  | cons b rest ih => rw [State.setRegs, ih]; rfl
@[simp] theorem State.setRegs_readByte (s : State) (j : Nat) (bs : List Byte) (k : Nat) : (s.setRegs j bs).readByte k = s.readByte k := by
  simp only [State.readByte, State.setRegs_mem, State.setRegs_params]
@[simp] theorem State.setRegs_sp (s : State) (j : Nat) (bs : List Byte) : (s.setRegs j bs).sp = s.sp := by
  simp only [State.sp, State.setRegs_stack]

/-! `writeResultAndFlag` -/

@[simp] theorem State.writeResultAndFlag_i (s : State) (x : Nibble) (r : Byte) (f : Bool) : (s.writeResultAndFlag x r f).i = s.i := by
  unfold State.writeResultAndFlag; split <;> rfl
@[simp] theorem State.writeResultAndFlag_pc (s : State) (x : Nibble) (r : Byte) (f : Bool) : (s.writeResultAndFlag x r f).pc = s.pc := by
  unfold State.writeResultAndFlag; split <;> rfl
@[simp] theorem State.writeResultAndFlag_stack (s : State) (x : Nibble) (r : Byte) (f : Bool) : (s.writeResultAndFlag x r f).stack = s.stack := by
  unfold State.writeResultAndFlag; split <;> rfl
@[simp] theorem State.writeResultAndFlag_dt (s : State) (x : Nibble) (r : Byte) (f : Bool) : (s.writeResultAndFlag x r f).dt = s.dt := by
  unfold State.writeResultAndFlag; split <;> rfl
@[simp] theorem State.writeResultAndFlag_st (s : State) (x : Nibble) (r : Byte) (f : Bool) : (s.writeResultAndFlag x r f).st = s.st := by
  unfold State.writeResultAndFlag; split <;> rfl
@[simp] theorem State.writeResultAndFlag_mem (s : State) (x : Nibble) (r : Byte) (f : Bool) : (s.writeResultAndFlag x r f).mem = s.mem := by
  unfold State.writeResultAndFlag; split <;> rfl
@[simp] theorem State.writeResultAndFlag_fb (s : State) (x : Nibble) (r : Byte) (f : Bool) : (s.writeResultAndFlag x r f).fb = s.fb := by
  unfold State.writeResultAndFlag; split <;> rfl
@[simp] theorem State.writeResultAndFlag_keyAsserted (s : State) (x : Nibble) (r : Byte) (f : Bool) : (s.writeResultAndFlag x r f).keyAsserted = s.keyAsserted := by
  unfold State.writeResultAndFlag; split <;> rfl
@[simp] theorem State.writeResultAndFlag_keyCode (s : State) (x : Nibble) (r : Byte) (f : Bool) : (s.writeResultAndFlag x r f).keyCode = s.keyCode := by
  unfold State.writeResultAndFlag; split <;> rfl
@[simp] theorem State.writeResultAndFlag_waiting (s : State) (x : Nibble) (r : Byte) (f : Bool) : (s.writeResultAndFlag x r f).waiting = s.waiting := by
  unfold State.writeResultAndFlag; split <;> rfl
@[simp] theorem State.writeResultAndFlag_fault (s : State) (x : Nibble) (r : Byte) (f : Bool) : (s.writeResultAndFlag x r f).fault = s.fault := by
  unfold State.writeResultAndFlag; split <;> rfl
@[simp] theorem State.writeResultAndFlag_params (s : State) (x : Nibble) (r : Byte) (f : Bool) : (s.writeResultAndFlag x r f).params = s.params := by
  unfold State.writeResultAndFlag; split <;> rfl
@[simp] theorem State.writeResultAndFlag_frameSteps (s : State) (x : Nibble) (r : Byte) (f : Bool) : (s.writeResultAndFlag x r f).frameSteps = s.frameSteps := by
  unfold State.writeResultAndFlag; split <;> rfl
@[simp] theorem State.writeResultAndFlag_keyAnswers (s : State) (x : Nibble) (r : Byte) (f : Bool) : (s.writeResultAndFlag x r f).keyAnswers = s.keyAnswers := by
  unfold State.writeResultAndFlag; split <;> rfl
@[simp] theorem State.writeResultAndFlag_randomAnswers (s : State) (x : Nibble) (r : Byte) (f : Bool) : (s.writeResultAndFlag x r f).randomAnswers = s.randomAnswers := by
  unfold State.writeResultAndFlag; split <;> rfl
@[simp] theorem State.writeResultAndFlag_draws (s : State) (x : Nibble) (r : Byte) (f : Bool) : (s.writeResultAndFlag x r f).draws = s.draws := by
  unfold State.writeResultAndFlag; split <;> rfl
@[simp] theorem State.writeResultAndFlag_readByte (s : State) (x : Nibble) (r : Byte) (f : Bool) (k : Nat) : (s.writeResultAndFlag x r f).readByte k = s.readByte k := by
  simp only [State.readByte, State.writeResultAndFlag_mem, State.writeResultAndFlag_params]
@[simp] theorem State.writeResultAndFlag_sp (s : State) (x : Nibble) (r : Byte) (f : Bool) : (s.writeResultAndFlag x r f).sp = s.sp := by
  simp only [State.sp, State.writeResultAndFlag_stack]

/-! `afterTransfer` -/

@[simp] theorem State.afterTransfer_v (s : State) (x : Nibble) : (s.afterTransfer x).v = s.v := by
  unfold State.afterTransfer; split <;> rfl
@[simp] theorem State.afterTransfer_pc (s : State) (x : Nibble) : (s.afterTransfer x).pc = s.pc := by
  unfold State.afterTransfer; split <;> rfl
@[simp] theorem State.afterTransfer_stack (s : State) (x : Nibble) : (s.afterTransfer x).stack = s.stack := by
  unfold State.afterTransfer; split <;> rfl
@[simp] theorem State.afterTransfer_dt (s : State) (x : Nibble) : (s.afterTransfer x).dt = s.dt := by
  unfold State.afterTransfer; split <;> rfl
@[simp] theorem State.afterTransfer_st (s : State) (x : Nibble) : (s.afterTransfer x).st = s.st := by
  unfold State.afterTransfer; split <;> rfl
@[simp] theorem State.afterTransfer_mem (s : State) (x : Nibble) : (s.afterTransfer x).mem = s.mem := by
  unfold State.afterTransfer; split <;> rfl
@[simp] theorem State.afterTransfer_fb (s : State) (x : Nibble) : (s.afterTransfer x).fb = s.fb := by
  unfold State.afterTransfer; split <;> rfl
@[simp] theorem State.afterTransfer_keyAsserted (s : State) (x : Nibble) : (s.afterTransfer x).keyAsserted = s.keyAsserted := by
  unfold State.afterTransfer; split <;> rfl
@[simp] theorem State.afterTransfer_keyCode (s : State) (x : Nibble) : (s.afterTransfer x).keyCode = s.keyCode := by
  unfold State.afterTransfer; split <;> rfl
@[simp] theorem State.afterTransfer_waiting (s : State) (x : Nibble) : (s.afterTransfer x).waiting = s.waiting := by
  unfold State.afterTransfer; split <;> rfl
@[simp] theorem State.afterTransfer_fault (s : State) (x : Nibble) : (s.afterTransfer x).fault = s.fault := by
  unfold State.afterTransfer; split <;> rfl
@[simp] theorem State.afterTransfer_params (s : State) (x : Nibble) : (s.afterTransfer x).params = s.params := by
  unfold State.afterTransfer; split <;> rfl
@[simp] theorem State.afterTransfer_frameSteps (s : State) (x : Nibble) : (s.afterTransfer x).frameSteps = s.frameSteps := by
  unfold State.afterTransfer; split <;> rfl
@[simp] theorem State.afterTransfer_keyAnswers (s : State) (x : Nibble) : (s.afterTransfer x).keyAnswers = s.keyAnswers := by
  unfold State.afterTransfer; split <;> rfl
@[simp] theorem State.afterTransfer_randomAnswers (s : State) (x : Nibble) : (s.afterTransfer x).randomAnswers = s.randomAnswers := by
  unfold State.afterTransfer; split <;> rfl
@[simp] theorem State.afterTransfer_draws (s : State) (x : Nibble) : (s.afterTransfer x).draws = s.draws := by
  unfold State.afterTransfer; split <;> rfl
@[simp] theorem State.afterTransfer_reg (s : State) (x : Nibble) (j : Nibble) : (s.afterTransfer x).reg j = s.reg j := by
  simp only [State.reg, State.afterTransfer_v]
@[simp] theorem State.afterTransfer_readByte (s : State) (x : Nibble) (k : Nat) : (s.afterTransfer x).readByte k = s.readByte k := by
  simp only [State.readByte, State.afterTransfer_mem, State.afterTransfer_params]
@[simp] theorem State.afterTransfer_sp (s : State) (x : Nibble) : (s.afterTransfer x).sp = s.sp := by
  simp only [State.sp, State.afterTransfer_stack]

/-! `drawSprite` -/

@[simp] theorem State.drawSprite_i (s : State) (x y n : Nibble) : (s.drawSprite x y n).i = s.i := rfl
@[simp] theorem State.drawSprite_pc (s : State) (x y n : Nibble) : (s.drawSprite x y n).pc = s.pc := rfl
@[simp] theorem State.drawSprite_stack (s : State) (x y n : Nibble) : (s.drawSprite x y n).stack = s.stack := rfl
@[simp] theorem State.drawSprite_dt (s : State) (x y n : Nibble) : (s.drawSprite x y n).dt = s.dt := rfl
@[simp] theorem State.drawSprite_st (s : State) (x y n : Nibble) : (s.drawSprite x y n).st = s.st := rfl
@[simp] theorem State.drawSprite_mem (s : State) (x y n : Nibble) : (s.drawSprite x y n).mem = s.mem := rfl
@[simp] theorem State.drawSprite_keyAsserted (s : State) (x y n : Nibble) : (s.drawSprite x y n).keyAsserted = s.keyAsserted := rfl
@[simp] theorem State.drawSprite_keyCode (s : State) (x y n : Nibble) : (s.drawSprite x y n).keyCode = s.keyCode := rfl
@[simp] theorem State.drawSprite_waiting (s : State) (x y n : Nibble) : (s.drawSprite x y n).waiting = s.waiting := rfl
@[simp] theorem State.drawSprite_fault (s : State) (x y n : Nibble) : (s.drawSprite x y n).fault = s.fault := rfl
@[simp] theorem State.drawSprite_params (s : State) (x y n : Nibble) : (s.drawSprite x y n).params = s.params := rfl
@[simp] theorem State.drawSprite_frameSteps (s : State) (x y n : Nibble) : (s.drawSprite x y n).frameSteps = s.frameSteps := rfl
@[simp] theorem State.drawSprite_keyAnswers (s : State) (x y n : Nibble) : (s.drawSprite x y n).keyAnswers = s.keyAnswers := rfl
@[simp] theorem State.drawSprite_randomAnswers (s : State) (x y n : Nibble) : (s.drawSprite x y n).randomAnswers = s.randomAnswers := rfl
@[simp] theorem State.drawSprite_draws (s : State) (x y n : Nibble) : (s.drawSprite x y n).draws = s.draws := rfl
@[simp] theorem State.drawSprite_readByte (s : State) (x y n : Nibble) (k : Nat) : (s.drawSprite x y n).readByte k = s.readByte k := rfl
@[simp] theorem State.drawSprite_sp (s : State) (x y n : Nibble) : (s.drawSprite x y n).sp = s.sp := rfl

/-! `timerTick` -/

@[simp] theorem State.timerTick_v (s : State) : (s.timerTick).v = s.v := rfl
@[simp] theorem State.timerTick_i (s : State) : (s.timerTick).i = s.i := rfl
@[simp] theorem State.timerTick_pc (s : State) : (s.timerTick).pc = s.pc := rfl
@[simp] theorem State.timerTick_stack (s : State) : (s.timerTick).stack = s.stack := rfl
@[simp] theorem State.timerTick_dt (s : State) : (s.timerTick).dt = tickTimer s.params.timerUnderflow s.dt := rfl
@[simp] theorem State.timerTick_st (s : State) : (s.timerTick).st = tickTimer s.params.timerUnderflow s.st := rfl
@[simp] theorem State.timerTick_mem (s : State) : (s.timerTick).mem = s.mem := rfl
@[simp] theorem State.timerTick_fb (s : State) : (s.timerTick).fb = s.fb := rfl
@[simp] theorem State.timerTick_keyAsserted (s : State) : (s.timerTick).keyAsserted = s.keyAsserted := rfl
@[simp] theorem State.timerTick_keyCode (s : State) : (s.timerTick).keyCode = s.keyCode := rfl
@[simp] theorem State.timerTick_waiting (s : State) : (s.timerTick).waiting = s.waiting := rfl
@[simp] theorem State.timerTick_fault (s : State) : (s.timerTick).fault = s.fault := rfl
@[simp] theorem State.timerTick_params (s : State) : (s.timerTick).params = s.params := rfl
@[simp] theorem State.timerTick_frameSteps (s : State) : (s.timerTick).frameSteps = s.frameSteps := rfl
@[simp] theorem State.timerTick_keyAnswers (s : State) : (s.timerTick).keyAnswers = s.keyAnswers := rfl
@[simp] theorem State.timerTick_randomAnswers (s : State) : (s.timerTick).randomAnswers = s.randomAnswers := rfl
@[simp] theorem State.timerTick_draws (s : State) : (s.timerTick).draws = s.draws := rfl
@[simp] theorem State.timerTick_reg (s : State) (j : Nibble) : (s.timerTick).reg j = s.reg j := rfl
@[simp] theorem State.timerTick_readByte (s : State) (k : Nat) : (s.timerTick).readByte k = s.readByte k := rfl
@[simp] theorem State.timerTick_sp (s : State) : (s.timerTick).sp = s.sp := rfl

/-! `afterStep` -/

@[simp] theorem State.afterStep_v (s : State) : (s.afterStep).v = s.v := rfl
@[simp] theorem State.afterStep_i (s : State) : (s.afterStep).i = s.i := rfl
@[simp] theorem State.afterStep_pc (s : State) : (s.afterStep).pc = s.pc := rfl
@[simp] theorem State.afterStep_stack (s : State) : (s.afterStep).stack = s.stack := rfl
@[simp] theorem State.afterStep_mem (s : State) : (s.afterStep).mem = s.mem := rfl
@[simp] theorem State.afterStep_fb (s : State) : (s.afterStep).fb = s.fb := rfl
@[simp] theorem State.afterStep_keyAsserted (s : State) : (s.afterStep).keyAsserted = s.keyAsserted := rfl
@[simp] theorem State.afterStep_keyCode (s : State) : (s.afterStep).keyCode = s.keyCode := rfl
@[simp] theorem State.afterStep_waiting (s : State) : (s.afterStep).waiting = s.waiting := rfl
@[simp] theorem State.afterStep_fault (s : State) : (s.afterStep).fault = s.fault := rfl
@[simp] theorem State.afterStep_params (s : State) : (s.afterStep).params = s.params := rfl
@[simp] theorem State.afterStep_keyAnswers (s : State) : (s.afterStep).keyAnswers = s.keyAnswers := rfl
@[simp] theorem State.afterStep_randomAnswers (s : State) : (s.afterStep).randomAnswers = s.randomAnswers := rfl
@[simp] theorem State.afterStep_draws (s : State) : (s.afterStep).draws = s.draws := rfl
@[simp] theorem State.afterStep_reg (s : State) (j : Nibble) : (s.afterStep).reg j = s.reg j := rfl
@[simp] theorem State.afterStep_readByte (s : State) (k : Nat) : (s.afterStep).readByte k = s.readByte k := rfl
@[simp] theorem State.afterStep_sp (s : State) : (s.afterStep).sp = s.sp := rfl

/-! Registers after a write. -/

theorem State.reg_setReg (s : State) (x : Nibble) (b : Byte) (j : Nibble) :
    (s.setReg x b).reg j = if j = x then b else s.reg j := by
  unfold State.reg State.setReg
  rw [Vector.getElem_set]
  by_cases h : j = x
  · simp [h]
  · have : x.toNat ≠ j.toNat := fun e => h (BitVec.eq_of_toNat_eq e.symm)
    simp [h, this]

@[simp] theorem State.reg_setReg_self (s : State) (x : Nibble) (b : Byte) : (s.setReg x b).reg x = b := by
  simp [State.reg_setReg]

theorem State.reg_setReg_ne (s : State) {x j : Nibble} (b : Byte) (h : j ≠ x) : (s.setReg x b).reg j = s.reg j := by
  simp [State.reg_setReg, h]

/-- Two states with the same registers have the same V. -/
theorem State.v_ext {s t : State} (h : ∀ j, s.reg j = t.reg j) : s.v = t.v := by
  apply Vector.ext
  intro k hk
  have := h (BitVec.ofNat 4 k)
  have hm : k % 16 = k := Nat.mod_eq_of_lt hk
  simpa [State.reg, BitVec.toNat_ofNat, hm] using this

/-- The stack's view of SP after a push. -/
@[simp] theorem State.sp_setStack (s : State) (l : List Word) : (s.setStack l).sp = l.length := rfl

/-! Registers after a result and its flag are written (R101). -/

theorem State.reg_writeResultAndFlag (s : State) (x : Nibble) (r : Byte) (f : Bool) (j : Nibble) :
    (s.writeResultAndFlag x r f).reg j =
      if j = x ∧ (x ≠ vf ∨ s.params.vfOrder = .resultLast) then r
      else if j = vf then flagByte f else s.reg j := by
  unfold State.writeResultAndFlag
  cases h : s.params.vfOrder <;> simp only [State.reg_setReg] <;> by_cases h1 : j = x <;>
    by_cases h2 : j = vf <;> simp_all

end Sys2Proof.Machine
end

