-- ==== Sys2Proof/Laws/Display.lean ====
section
/-! SUPPORT. Pixels after a toggle, and the drawing loop as one pass over the list of the buffer positions a sprite's set bits land on. -/

namespace Sys2Proof.Machine

@[simp] theorem Display.pixel_clear (x y : Nat) : Display.clear.pixel x y = false := by
  simp [Display.clear, Display.pixel]

/-- Pixels depend on the coordinates modulo 64 and 32 only (R151). -/
theorem Display.pixel_mod (d : Display) (x y : Nat) : d.pixel (x % 64) (y % 32) = d.pixel x y := by
  simp [Display.pixel]

theorem Display.pixel_toggle (d : Display) (x y X Y : Nat) :
    (d.toggle x y).pixel X Y =
      if X % 64 = x % 64 ∧ Y % 32 = y % 32 then !d.pixel X Y else d.pixel X Y := by
  unfold Display.toggle
  by_cases hx : X % 64 = x % 64
  · by_cases hy : Y % 32 = y % 32
    · simp [Display.pixel, hx, hy]
    · simp [Display.pixel, hx, hy, Ne.symm hy]
  · simp [Display.pixel, hx, Ne.symm hx]

/-- Buffers with the same pixels are equal. -/
theorem Display.ext_pixel {d e : Display} (h : ∀ x y, x < 64 → y < 32 → d.pixel x y = e.pixel x y) : d = e := by
  apply Vector.ext
  intro x hx
  apply Vector.ext
  intro y hy
  have := h x y hx hy
  simpa [Display.pixel, Nat.mod_eq_of_lt hx, Nat.mod_eq_of_lt hy] using this

/-- One toggle with its collision test. -/
def toggleAt (a : Drawn) (p : Nat × Nat) : Drawn := (a.1.toggle p.1 p.2, a.2 || a.1.pixel p.1 p.2)

/-- The positions the set bits of one row land on, for the column offsets `cs`. -/
def columnPoints (px y : Nat) (row : Byte) (cs : List Nat) : List (Nat × Nat) :=
  (cs.filter (spriteBit row)).map fun c => (px + c, y)

/-- The positions the set bits of a sprite land on. -/
def rowPoints (px : Nat) : Nat → List Byte → List (Nat × Nat)
  | _, [] => []
  | y, row :: rows => columnPoints px y row (List.range 8) ++ rowPoints px (y + 1) rows

theorem drawColumns_eq (px y : Nat) (row : Byte) (cs : List Nat) (a : Drawn) :
    drawColumns px y row cs a = (columnPoints px y row cs).foldl toggleAt a := by
  induction cs generalizing a with
  | nil => rfl
  | cons c cs ih =>
    rw [drawColumns, ih]
    by_cases hb : spriteBit row c = true
    · simp [columnPoints, drawPixel, hb, toggleAt]
    · simp [columnPoints, drawPixel, hb]

/-- The loop of R152 is one pass over the positions. -/
theorem drawRows_eq (px y : Nat) (rows : List Byte) (a : Drawn) :
    drawRows px y rows a = (rowPoints px y rows).foldl toggleAt a := by
  induction rows generalizing y a with
  | nil => rfl
  | cons row rows ih =>
    rw [drawRows, ih, drawColumns_eq, rowPoints, List.foldl_append]

theorem mem_columnPoints {px y : Nat} {row : Byte} {p : Nat × Nat} :
    p ∈ columnPoints px y row (List.range 8) ↔
      ∃ c, c < 8 ∧ spriteBit row c = true ∧ p = (px + c, y) := by
  simp only [columnPoints, List.mem_map, List.mem_filter, List.mem_range]
  constructor
  · rintro ⟨c, ⟨h1, h2⟩, rfl⟩
    exact ⟨c, h1, h2, rfl⟩
  · rintro ⟨c, h1, h2, rfl⟩
    exact ⟨c, ⟨h1, h2⟩, rfl⟩

theorem mem_rowPoints {px y : Nat} {rows : List Byte} {p : Nat × Nat} :
    p ∈ rowPoints px y rows ↔
      ∃ r, ∃ hr : r < rows.length, ∃ c, c < 8 ∧ spriteBit rows[r] c = true ∧ p = (px + c, y + r) := by
  induction rows generalizing y with
  | nil => simp [rowPoints]
  | cons row rows ih =>
    rw [rowPoints, List.mem_append, mem_columnPoints, ih]
    constructor
    · rintro (⟨c, h1, h2, rfl⟩ | ⟨r, hr, c, h1, h2, rfl⟩)
      · exact ⟨0, by simp, c, h1, by simpa using h2, by simp⟩
      · exact ⟨r + 1, by simpa using hr, c, h1, by simpa using h2, by simp; omega⟩
    · rintro ⟨r, hr, c, h1, h2, rfl⟩
      cases r with
      | zero => exact .inl ⟨c, h1, by simpa using h2, by simp⟩
      | succ r => exact .inr ⟨r, by simpa using hr, c, h1, by simpa using h2, by simp; omega⟩

/-- A position as it lands in the buffer. -/
def wrapPoint (p : Nat × Nat) : Nat × Nat := (p.1 % 64, p.2 % 32)

/-- No two set bits of a sprite land on the same pixel, since 8 < 64 and n ≤ 15 < 32 (R152). -/
theorem rowPoints_nodup {px y : Nat} {rows : List Byte} (hlen : rows.length ≤ 32) :
    ((rowPoints px y rows).map wrapPoint).Nodup := by
  induction rows generalizing y with
  | nil => simp [rowPoints]
  | cons row rows ih =>
    rw [List.length_cons] at hlen
    rw [rowPoints, List.map_append, List.nodup_append]
    refine ⟨?_, ih (by omega), ?_⟩
    · unfold columnPoints
      rw [List.map_map]
      apply List.Nodup.map_on
      · intro c hc c' hc' h
        simp only [List.mem_filter, List.mem_range] at hc hc'
        simp only [Function.comp, wrapPoint, Prod.mk.injEq] at h
        omega
      · exact List.Nodup.filter _ List.nodup_range
    · intro p hp q hq h
      obtain ⟨p', hp', rfl⟩ := List.mem_map.1 hp
      obtain ⟨q', hq', rfl⟩ := List.mem_map.1 hq
      obtain ⟨c, -, -, rfl⟩ := mem_columnPoints.1 hp'
      obtain ⟨r, hr, c', -, -, rfl⟩ := mem_rowPoints.1 hq'
      simp only [wrapPoint, Prod.mk.injEq] at h
      omega

/-- A pass over positions that land on distinct pixels toggles exactly those pixels. -/
theorem pixel_foldl_toggleAt {ps : List (Nat × Nat)} (hn : (ps.map wrapPoint).Nodup) (a : Drawn) (X Y : Nat) :
    (ps.foldl toggleAt a).1.pixel X Y =
      (a.1.pixel X Y ^^ decide (wrapPoint (X, Y) ∈ ps.map wrapPoint)) := by
  induction ps generalizing a with
  | nil => simp
  | cons p ps ih =>
    rw [List.map_cons, List.nodup_cons] at hn
    rw [List.foldl_cons, ih hn.2, toggleAt, Display.pixel_toggle]
    by_cases h : wrapPoint (X, Y) = wrapPoint p
    · have h' : X % 64 = p.1 % 64 ∧ Y % 32 = p.2 % 32 := by simpa [wrapPoint] using h
      have hno : ¬ wrapPoint (X, Y) ∈ ps.map wrapPoint := by rw [h]; exact hn.1
      rw [if_pos h', List.map_cons, h]
      rw [h] at hno
      simp [hno]
    · have h' : ¬ (X % 64 = p.1 % 64 ∧ Y % 32 = p.2 % 32) := by simpa [wrapPoint] using h
      rw [if_neg h', List.map_cons]
      simp [h]

/-- The pass reports a collision exactly when one of those pixels was on. -/
theorem collision_foldl_toggleAt {ps : List (Nat × Nat)} (hn : (ps.map wrapPoint).Nodup) (a : Drawn) :
    (ps.foldl toggleAt a).2 = (a.2 || ps.any fun p => a.1.pixel p.1 p.2) := by
  induction ps generalizing a with
  | nil => simp
  | cons p ps ih =>
    rw [List.map_cons, List.nodup_cons] at hn
    have key : ∀ q ∈ ps, (a.1.toggle p.1 p.2).pixel q.1 q.2 = a.1.pixel q.1 q.2 := by
      intro q hq
      rw [Display.pixel_toggle, if_neg]
      intro h
      have : wrapPoint q = wrapPoint p := by simp [wrapPoint, h.1, h.2]
      exact hn.1 (this ▸ List.mem_map_of_mem hq)
    rw [List.foldl_cons, ih hn.2, toggleAt, List.any_cons, ← Bool.or_assoc]
    congr 1
    rw [Bool.eq_iff_iff, List.any_eq_true, List.any_eq_true]
    exact ⟨fun ⟨q, hq, h⟩ => ⟨q, hq, key q hq ▸ h⟩, fun ⟨q, hq, h⟩ => ⟨q, hq, (key q hq).symm ▸ h⟩⟩

end Sys2Proof.Machine
end

