-- ==== Sys2Proof/Laws/Encoding.lean ====
section
/-! SUPPORT. The fields and formats of 30_encoding.md R71 and R73 as arithmetic on naturals, and that a format gives back the fields it was built from. -/

namespace Sys2Proof

theorem toNat_append_add {m n : Nat} (a : BitVec m) (b : BitVec n) :
    (a ++ b).toNat = a.toNat * 2 ^ n + b.toNat := by
  rw [BitVec.toNat_append, ← Nat.shiftLeft_add_eq_or_of_lt b.isLt, Nat.shiftLeft_eq]

theorem toNat_wordOfBytes (hi lo : Byte) : (wordOfBytes hi lo).toNat = hi.toNat * 256 + lo.toNat :=
  toNat_append_add hi lo

theorem toNat_formatA (op : Nibble) (nnn : Addr12) :
    (formatA op nnn).toNat = op.toNat * 4096 + nnn.toNat :=
  toNat_append_add op nnn

theorem toNat_formatXK (op x : Nibble) (kk : Byte) :
    (formatXK op x kk).toNat = op.toNat * 4096 + x.toNat * 256 + kk.toNat := by
  have h1 := toNat_append_add (op ++ x) kk
  have h2 := toNat_append_add op x
  have h : (formatXK op x kk).toNat = (op ++ x ++ kk).toNat := rfl
  omega

theorem toNat_formatXY (op x y n : Nibble) :
    (formatXY op x y n).toNat = op.toNat * 4096 + x.toNat * 256 + y.toNat * 16 + n.toNat := by
  have h1 := toNat_append_add (op ++ x ++ y) n
  have h2 := toNat_append_add (op ++ x) y
  have h3 := toNat_append_add op x
  have h : (formatXY op x y n).toNat = (op ++ x ++ y ++ n).toNat := rfl
  omega

theorem toNat_fieldOp (w : Word) : (fieldOp w).toNat = w.toNat / 4096 % 16 := by
  simp [fieldOp, Nat.shiftRight_eq_div_pow]

theorem toNat_fieldNnn (w : Word) : (fieldNnn w).toNat = w.toNat % 4096 := by
  simp [fieldNnn]

theorem toNat_fieldX (w : Word) : (fieldX w).toNat = w.toNat / 256 % 16 := by
  simp [fieldX, Nat.shiftRight_eq_div_pow]

theorem toNat_fieldY (w : Word) : (fieldY w).toNat = w.toNat / 16 % 16 := by
  simp [fieldY, Nat.shiftRight_eq_div_pow]

theorem toNat_fieldN (w : Word) : (fieldN w).toNat = w.toNat % 16 := by
  simp [fieldN]

theorem toNat_fieldKk (w : Word) : (fieldKk w).toNat = w.toNat % 256 := by
  simp [fieldKk]

theorem toNat_highByte (w : Word) : (highByte w).toNat = w.toNat / 256 % 256 := by
  simp [highByte, Nat.shiftRight_eq_div_pow]

theorem toNat_lowByte (w : Word) : (lowByte w).toNat = w.toNat % 256 := by
  simp [lowByte]

/-! The fields of a word in each format. -/

@[simp] theorem fieldOp_formatA (op : Nibble) (nnn : Addr12) : fieldOp (formatA op nnn) = op := by
  apply BitVec.eq_of_toNat_eq
  rw [toNat_fieldOp, toNat_formatA]
  omega

@[simp] theorem fieldNnn_formatA (op : Nibble) (nnn : Addr12) : fieldNnn (formatA op nnn) = nnn := by
  apply BitVec.eq_of_toNat_eq
  rw [toNat_fieldNnn, toNat_formatA]
  omega

theorem fieldX_formatA (op : Nibble) (nnn : Addr12) :
    (fieldX (formatA op nnn)).toNat = nnn.toNat / 256 := by
  rw [toNat_fieldX, toNat_formatA]
  omega

theorem fieldKk_formatA (op : Nibble) (nnn : Addr12) :
    fieldKk (formatA op nnn) = nnn.extractLsb' 0 8 := by
  apply BitVec.eq_of_toNat_eq
  rw [toNat_fieldKk, toNat_formatA]
  simp
  omega

@[simp] theorem fieldOp_formatXK (op x : Nibble) (kk : Byte) : fieldOp (formatXK op x kk) = op := by
  apply BitVec.eq_of_toNat_eq
  rw [toNat_fieldOp, toNat_formatXK]
  omega

@[simp] theorem fieldX_formatXK (op x : Nibble) (kk : Byte) : fieldX (formatXK op x kk) = x := by
  apply BitVec.eq_of_toNat_eq
  rw [toNat_fieldX, toNat_formatXK]
  omega

@[simp] theorem fieldKk_formatXK (op x : Nibble) (kk : Byte) : fieldKk (formatXK op x kk) = kk := by
  apply BitVec.eq_of_toNat_eq
  rw [toNat_fieldKk, toNat_formatXK]
  omega

@[simp] theorem fieldOp_formatXY (op x y n : Nibble) : fieldOp (formatXY op x y n) = op := by
  apply BitVec.eq_of_toNat_eq
  rw [toNat_fieldOp, toNat_formatXY]
  omega

@[simp] theorem fieldX_formatXY (op x y n : Nibble) : fieldX (formatXY op x y n) = x := by
  apply BitVec.eq_of_toNat_eq
  rw [toNat_fieldX, toNat_formatXY]
  omega

@[simp] theorem fieldY_formatXY (op x y n : Nibble) : fieldY (formatXY op x y n) = y := by
  apply BitVec.eq_of_toNat_eq
  rw [toNat_fieldY, toNat_formatXY]
  omega

@[simp] theorem fieldN_formatXY (op x y n : Nibble) : fieldN (formatXY op x y n) = n := by
  apply BitVec.eq_of_toNat_eq
  rw [toNat_fieldN, toNat_formatXY]
  omega

/-! A word is each format of its fields. -/

theorem formatA_fields (w : Word) : formatA (fieldOp w) (fieldNnn w) = w := by
  apply BitVec.eq_of_toNat_eq
  rw [toNat_formatA, toNat_fieldOp, toNat_fieldNnn]
  omega

theorem formatXK_fields (w : Word) : formatXK (fieldOp w) (fieldX w) (fieldKk w) = w := by
  apply BitVec.eq_of_toNat_eq
  rw [toNat_formatXK, toNat_fieldOp, toNat_fieldX, toNat_fieldKk]
  omega

theorem formatXY_fields (w : Word) :
    formatXY (fieldOp w) (fieldX w) (fieldY w) (fieldN w) = w := by
  apply BitVec.eq_of_toNat_eq
  rw [toNat_formatXY, toNat_fieldOp, toNat_fieldX, toNat_fieldY, toNat_fieldN]
  omega

/-! Bytes and words (R55). -/

@[simp] theorem wordOfBytes_high_low (w : Word) : wordOfBytes (highByte w) (lowByte w) = w := by
  apply BitVec.eq_of_toNat_eq
  rw [toNat_wordOfBytes, toNat_highByte, toNat_lowByte]
  omega

@[simp] theorem highByte_wordOfBytes (hi lo : Byte) : highByte (wordOfBytes hi lo) = hi := by
  apply BitVec.eq_of_toNat_eq
  rw [toNat_highByte, toNat_wordOfBytes]
  omega

@[simp] theorem lowByte_wordOfBytes (hi lo : Byte) : lowByte (wordOfBytes hi lo) = lo := by
  apply BitVec.eq_of_toNat_eq
  rw [toNat_lowByte, toNat_wordOfBytes]
  omega

/-- What `decode` answers, by the decode map. -/
theorem decode_eq_ok {m : DecodeMode} {w : Word} {i : Instr} :
    decode m w = .ok i ↔ decodeClass m w = some i := by
  unfold decode
  cases decodeClass m w <;> simp

theorem decode_eq_error {m : DecodeMode} {w : Word} {r : DecodeReject} :
    decode m w = .error r ↔ decodeClass m w = none ∧ r = .unimplemented w := by
  unfold decode
  cases decodeClass m w <;> simp [eq_comm]

end Sys2Proof
end

