-- ==== Sys2Proof/Laws/Memory.lean ====
section
/-! SUPPORT. Memory as a canonical list: a read after a write, that every memory operation keeps the canonical form, and that canonical memories with the same bytes are equal. -/

namespace Sys2Proof.Machine

theorem Memory.wfFrom_cons {u : Nat → Byte} {lo a : Nat} {b : Byte} {rest : Memory} :
    Memory.wfFrom u lo ((a, b) :: rest) = true ↔
      lo ≤ a ∧ a < memorySize ∧ b ≠ u a ∧ Memory.wfFrom u (a + 1) rest = true := by
  simp [Memory.wfFrom, and_assoc]

theorem Memory.wfFrom_mono {u : Nat → Byte} {lo lo' : Nat} {m : Memory} (hle : lo ≤ lo')
    (h : Memory.wfFrom u lo' m = true) : Memory.wfFrom u lo m = true := by
  cases m with
  | nil => rfl
  | cons c rest =>
    rw [Memory.wfFrom_cons] at h ⊢
    exact ⟨hle.trans h.1, h.2⟩

/-- Below the first address the list can hold, every address reads as unlisted. -/
theorem Memory.read_of_lt {u : Nat → Byte} {m : Memory} {lo a : Nat}
    (h : Memory.wfFrom u lo m = true) (ha : a < lo) : Memory.read u m a = u a := by
  induction m generalizing lo with
  | nil => rfl
  | cons c rest ih =>
    rw [Memory.wfFrom_cons] at h
    have hne : a ≠ c.1 := by omega
    simp only [Memory.read, hne, if_false]
    exact ih h.2.2.2 (by omega)

/-- A read of the address just written gives the byte written. -/
theorem Memory.read_write_self {u : Nat → Byte} {m : Memory} {lo : Nat}
    (h : Memory.wfFrom u lo m = true) (a : Nat) (b : Byte) :
    Memory.read u (Memory.write u m a b) a = b := by
  induction m generalizing lo with
  | nil =>
    by_cases hb : b = u a <;> simp [Memory.write, Memory.read, hb]
  | cons c rest ih =>
    obtain ⟨a', b'⟩ := c
    rw [Memory.wfFrom_cons] at h
    have hskip : a < a' + 1 → Memory.read u rest a = u a := Memory.read_of_lt h.2.2.2
    rcases Nat.lt_trichotomy a a' with hlt | heq | hgt
    · by_cases hb : b = u a
      · simp [Memory.write, Memory.read, hlt, hb, hlt.ne, hskip (by omega)]
      · simp [Memory.write, Memory.read, hlt, hb]
    · subst heq
      by_cases hb : b = u a
      · simp [Memory.write, hb, hskip (by omega)]
      · simp [Memory.write, Memory.read, hb]
    · have h1 : ¬ a < a' := by omega
      have h2 : a ≠ a' := by omega
      simp [Memory.write, Memory.read, h1, h2, ih h.2.2.2]

/-- A write leaves every other address alone. -/
theorem Memory.read_write_ne {u : Nat → Byte} {m : Memory} {a k : Nat} (b : Byte) (hne : k ≠ a) :
    Memory.read u (Memory.write u m a b) k = Memory.read u m k := by
  induction m with
  | nil => by_cases hb : b = u a <;> simp [Memory.write, Memory.read, hb, hne]
  | cons c rest ih =>
    obtain ⟨a', b'⟩ := c
    unfold Memory.write
    split
    · split <;> simp [Memory.read, hne]
    · split
      · rename_i heq
        subst heq
        split <;> simp [Memory.read, hne]
      · simp [Memory.read, ih]

/-- A write inside the address space keeps the canonical form. -/
theorem Memory.write_wfFrom {u : Nat → Byte} {m : Memory} {lo a : Nat} {b : Byte}
    (h : Memory.wfFrom u lo m = true) (hlo : lo ≤ a) (ha : a < memorySize) :
    Memory.wfFrom u lo (Memory.write u m a b) = true := by
  induction m generalizing lo with
  | nil =>
    unfold Memory.write
    split
    · rfl
    · rename_i hb
      exact Memory.wfFrom_cons.2 ⟨hlo, ha, hb, rfl⟩
  | cons c rest ih =>
    obtain ⟨a', b'⟩ := c
    have hc := Memory.wfFrom_cons.1 h
    unfold Memory.write
    split
    · split
      · exact h
      · rename_i hlt hb
        exact Memory.wfFrom_cons.2 ⟨hlo, ha, hb, Memory.wfFrom_cons.2 ⟨hlt, hc.2⟩⟩
    · split
      · rename_i heq
        subst heq
        split
        · exact Memory.wfFrom_mono (by omega) hc.2.2.2
        · rename_i hb
          exact Memory.wfFrom_cons.2 ⟨hlo, ha, hb, hc.2.2.2⟩
      · exact Memory.wfFrom_cons.2 ⟨hc.1, hc.2.1, hc.2.2.1, ih hc.2.2.2 (by omega)⟩

/-- Canonical memories that read the same at every address are the same list. -/
theorem Memory.eq_of_read_eq {u : Nat → Byte} {m m' : Memory} {lo : Nat}
    (h : Memory.wfFrom u lo m = true) (h' : Memory.wfFrom u lo m' = true)
    (heq : ∀ a, Memory.read u m a = Memory.read u m' a) : m = m' := by
  induction m generalizing lo m' with
  | nil =>
    cases m' with
    | nil => rfl
    | cons c rest =>
      have hc := Memory.wfFrom_cons.1 h'
      have := heq c.1
      simp only [Memory.read, if_true] at this
      exact absurd this.symm hc.2.2.1
  | cons c rest ih =>
    obtain ⟨a, b⟩ := c
    have hc := Memory.wfFrom_cons.1 h
    cases m' with
    | nil =>
      have := heq a
      simp only [Memory.read, if_true] at this
      exact absurd this hc.2.2.1
    | cons c' rest' =>
      obtain ⟨a', b'⟩ := c'
      have hc' := Memory.wfFrom_cons.1 h'
      have hfirst : a = a' := by
        rcases Nat.lt_trichotomy a a' with hlt | he | hgt
        · have := heq a
          rw [Memory.read_of_lt (Memory.wfFrom_cons.2 ⟨le_refl a', hc'.2⟩) hlt] at this
          simp only [Memory.read, if_true] at this
          exact absurd this hc.2.2.1
        · exact he
        · have := heq a'
          rw [Memory.read_of_lt (Memory.wfFrom_cons.2 ⟨le_refl a, hc.2⟩) hgt] at this
          simp only [Memory.read, if_true] at this
          exact absurd this.symm hc'.2.2.1
      subst hfirst
      have hb : b = b' := by simpa [Memory.read] using heq a
      subst hb
      have hrest : ∀ k, Memory.read u rest k = Memory.read u rest' k := by
        intro k
        by_cases hk : k = a
        · subst hk
          rw [Memory.read_of_lt hc.2.2.2 (by omega), Memory.read_of_lt hc'.2.2.2 (by omega)]
        · simpa [Memory.read, hk] using heq k
      rw [ih hc.2.2.2 hc'.2.2.2 hrest]

/-! The same laws on State. -/

theorem State.readByte_writeByte_self {s : State} (h : s.memWf = true) (a : Nat) (b : Byte) :
    (s.writeByte a b).readByte a = b :=
  Memory.read_write_self h a b

theorem State.readByte_writeByte_ne (s : State) {a k : Nat} (b : Byte) (hne : k ≠ a) :
    (s.writeByte a b).readByte k = s.readByte k :=
  Memory.read_write_ne b hne

theorem State.writeByte_memWf {s : State} (h : s.memWf = true) {a : Nat} (b : Byte) (ha : a < memorySize) :
    (s.writeByte a b).memWf = true :=
  Memory.write_wfFrom h (Nat.zero_le a) ha

theorem State.writeBytes_memWf {s : State} (h : s.memWf = true) {a : Nat} {bs : List Byte}
    (ha : a + bs.length ≤ memorySize) : (s.writeBytes a bs).memWf = true := by
  induction bs generalizing s a with
  | nil => exact h
  | cons b rest ih =>
    rw [List.length_cons] at ha
    exact ih (State.writeByte_memWf h b (by omega)) (by omega)

/-- Bytes written at ascending addresses read back, and every other address is left alone. -/
theorem State.readByte_writeBytes {s : State} (h : s.memWf = true) {a : Nat} {bs : List Byte}
    (ha : a + bs.length ≤ memorySize) (k : Nat) :
    (s.writeBytes a bs).readByte k =
      if hk : a ≤ k ∧ k < a + bs.length then bs[k - a]'(by omega) else s.readByte k := by
  induction bs generalizing s a with
  | nil =>
    simp [State.writeBytes]
  | cons b rest ih =>
    simp only [List.length_cons] at ha ⊢
    rw [State.writeBytes, ih (State.writeByte_memWf h b (by omega)) (by omega)]
    rcases Nat.lt_trichotomy k a with hlt | heq | hgt
    · rw [dif_neg (by omega), dif_neg (by omega), State.readByte_writeByte_ne s b (by omega)]
    · subst heq
      rw [dif_neg (by omega), dif_pos (by omega), State.readByte_writeByte_self h]
      simp
    · by_cases hk : k < a + (rest.length + 1)
      · rw [dif_pos (by omega), dif_pos (by omega)]
        have : k - a = (k - (a + 1)) + 1 := by omega
        simp [this]
      · rw [dif_neg (by omega), dif_neg (by omega), State.readByte_writeByte_ne s b (by omega)]

/-- The bytes outside a stored range are left alone, whatever the memory's form. -/
theorem State.readByte_writeBytes_outside (s : State) {a k : Nat} {bs : List Byte}
    (hk : k < a ∨ a + bs.length ≤ k) : (s.writeBytes a bs).readByte k = s.readByte k := by
  induction bs generalizing s a with
  | nil => rfl
  | cons b rest ih =>
    rw [List.length_cons] at hk
    rw [State.writeBytes, ih _ (by omega), State.readByte_writeByte_ne s b (by omega)]

/-- The canonical form depends on the parameters and the memory alone. -/
theorem State.memWf_congr {s t : State} (hp : t.params = s.params) (hm : t.mem = s.mem) :
    t.memWf = s.memWf := by
  unfold State.memWf
  rw [hp, hm]

@[simp] theorem State.setWaiting_memWf (s : State) (w : Bool) : (s.setWaiting w).memWf = s.memWf := rfl
@[simp] theorem State.afterTransfer_memWf (s : State) (x : Nibble) : (s.afterTransfer x).memWf = s.memWf :=
  State.memWf_congr (by simp) (by simp)

theorem State.reset_memWf : State.reset.memWf = true := rfl

@[simp] theorem State.length_readBytes (s : State) (a n : Nat) : (s.readBytes a n).length = n := by
  simp [State.readBytes]

theorem State.getElem_readBytes (s : State) (a n k : Nat) (hk : k < (s.readBytes a n).length) :
    (s.readBytes a n)[k] = s.readByte (a + k) := by
  simp [State.readBytes]

@[simp] theorem State.length_regsUpTo (s : State) (x : Nibble) : (s.regsUpTo x).length = x.toNat + 1 := by
  simp [State.regsUpTo]

theorem State.getElem_regsUpTo (s : State) (x : Nibble) (k : Nat) (hk : k < (s.regsUpTo x).length) :
    (s.regsUpTo x)[k] = s.reg (BitVec.ofNat 4 k) := by
  simp [State.regsUpTo]

/-- The registers after V[j], V[j+1], … are written: the bytes in order, every other register as before. -/
theorem State.reg_setRegs (s : State) (j : Nat) (bs : List Byte) (h : j + bs.length ≤ 16) (k : Nibble) :
    (s.setRegs j bs).reg k =
      if hk : j ≤ k.toNat ∧ k.toNat < j + bs.length then bs[k.toNat - j]'(by omega) else s.reg k := by
  induction bs generalizing s j with
  | nil => simp [State.setRegs]
  | cons b rest ih =>
    simp only [List.length_cons] at h ⊢
    rw [State.setRegs, ih _ _ (by omega)]
    have hj : (BitVec.ofNat 4 j).toNat = j := by simp; omega
    by_cases h1 : j + 1 ≤ k.toNat ∧ k.toNat < j + 1 + rest.length
    · rw [dif_pos h1, dif_pos (by omega)]
      have : k.toNat - j = (k.toNat - (j + 1)) + 1 := by omega
      simp [this]
    · rw [dif_neg h1, State.reg_setReg]
      by_cases h2 : k = BitVec.ofNat 4 j
      · subst h2
        rw [if_pos rfl, dif_pos (by omega)]
        simp [hj]
      · rw [if_neg h2, dif_neg]
        intro h3
        exact h2 (BitVec.eq_of_toNat_eq (by rw [hj]; omega))

/-! The address checks (R56, R54). -/

/-- A range is in bounds exactly when the check finds nothing. -/
theorem outOfRange_eq_none {base n : Nat} : outOfRange base n = none ↔ n = 0 ∨ base + n ≤ memorySize := by
  unfold outOfRange
  split <;> simp <;> omega

/-- What the check finds is the lowest address of the range outside the address space. -/
theorem outOfRange_eq_some {base n a : Nat} :
    outOfRange base n = some a ↔
      (base ≤ a ∧ a < base + n ∧ memorySize ≤ a) ∧ ∀ k, base ≤ k → memorySize ≤ k → a ≤ k := by
  unfold outOfRange
  split
  · rename_i h
    simp only [Option.some.injEq]
    constructor
    · rintro rfl
      exact ⟨⟨by omega, by omega, by omega⟩, fun k h1 h2 => by omega⟩
    · rintro ⟨⟨h1, h2, h3⟩, hmin⟩
      have := hmin (max base memorySize) (by omega) (by omega)
      omega
  · simp only [reduceCtorEq, false_iff]
    rintro ⟨⟨h1, h2, h3⟩, -⟩
    omega

/-- What the check finds in a range that leaves the address space, in the terms the claims use. -/
theorem outOfRange_of_lt {base n : Nat} (hn : 1 ≤ n) (h : 0xFFF < base + n - 1) :
    outOfRange base n = some (max base 0x1000) := by
  unfold outOfRange memorySize
  rw [if_pos (by omega)]

theorem outOfRange_of_le {base n : Nat} (h : base + n - 1 ≤ 0xFFF) : outOfRange base n = none := by
  rw [outOfRange_eq_none]
  simp only [memorySize]
  omega

theorem checkRead_eq_none {base n : Nat} : checkRead base n = none ↔ n = 0 ∨ base + n ≤ memorySize := by
  simp [checkRead, outOfRange_eq_none]

theorem checkRead_eq_some {base n a : Nat} {k : FaultKind} :
    checkRead base n = some (k, a) ↔ k = .addressOutOfRange ∧ outOfRange base n = some a := by
  simp only [checkRead, Option.map_eq_some_iff, Prod.mk.injEq]
  constructor
  · rintro ⟨b, hb, rfl, rfl⟩
    exact ⟨rfl, hb⟩
  · rintro ⟨rfl, h⟩
    exact ⟨a, h, rfl, rfl⟩

theorem checkWrite_eq_none {p : Params} {base n : Nat} (hn : 1 ≤ n) :
    checkWrite p base n = none ↔
      base + n ≤ memorySize ∧ (p.fontWrite = .write ∨ fontEnd ≤ base) := by
  unfold checkWrite
  cases h : outOfRange base n with
  | none =>
    have := outOfRange_eq_none.1 h
    cases hf : p.fontWrite <;> simp <;> omega
  | some a =>
    have := (outOfRange_eq_some.1 h).1
    simp only [reduceCtorEq, false_iff, not_and]
    omega

end Sys2Proof.Machine
end

