-- ==== Sys2Proof/Laws/Exec.lean ====
section
/-! SUPPORT. The one normal form of `exec`: either a fault that leaves the state as before the fetch but for the record, or the instruction's effect and the update of `waiting`. Every law about what instructions change is a case analysis over it. -/

namespace Sys2Proof.Machine

theorem complete_eq (s : State) : complete s = .next (s.setWaiting false) := rfl

theorem raise_eq (kind : FaultKind) (addr : Option Nat) (i : Instr) (s : State) :
    raise kind addr i s = .next (faulted s kind addr i) := rfl

/-- The fault an instruction raises in `s`, with its address, if any (R210, R214). -/
def blocked (i : Instr) (s : State) : Option (FaultKind × Option Nat) :=
  match i with
  | .sys _ => if s.params.sysPolicy = .fault then some (.unimplementedInstruction, none) else none
  | .ret _ => if s.stack = [] then some (.stackUnderflow, none) else none
  | .call _ => if s.sp < s.params.stackDepth then none else some (.stackOverflow, none)
  | .drw _ _ n => (checkRead s.i.toNat n.toNat).map fun f => (f.1, some f.2)
  | .ldBVx _ => (checkWrite s.params s.i.toNat 3).map fun f => (f.1, some f.2)
  | .ldMemVx x => (checkWrite s.params s.i.toNat (x.toNat + 1)).map fun f => (f.1, some f.2)
  | .ldVxMem x => (checkRead s.i.toNat (x.toNat + 1)).map fun f => (f.1, some f.2)
  | _ => none

/-- What an instruction does to the state when no fault stops it, `waiting` apart. -/
def effect (i : Instr) (s : State) : State :=
  match i with
  | .cls _ => s.setFb Display.clear
  | .ret _ => (s.setPc (s.stack.headD 0)).setStack s.stack.tail
  | .sys _ => s
  | .jp nnn => s.setPc (addrOf nnn)
  | .call nnn => (s.setStack (s.pc :: s.stack)).setPc (addrOf nnn)
  | .seImm x kk => s.skipIf (s.reg x == kk)
  | .sneImm x kk => s.skipIf (s.reg x != kk)
  | .seReg x y _ => s.skipIf (s.reg x == s.reg y)
  | .ldImm x kk => s.setReg x kk
  | .addImm x kk => s.setReg x (s.reg x + kk)
  | .ldReg x y => s.setReg x (s.reg y)
  | .orReg x y => s.setReg x (s.reg x ||| s.reg y)
  | .andReg x y => s.setReg x (s.reg x &&& s.reg y)
  | .xorReg x y => s.setReg x (s.reg x ^^^ s.reg y)
  | .addReg x y => s.writeResultAndFlag x (s.reg x + s.reg y) (carryOf (s.reg x) (s.reg y))
  | .sub x y => s.writeResultAndFlag x (s.reg x - s.reg y) (noBorrow (s.reg x) (s.reg y))
  | .shr x y => s.writeResultAndFlag x (s.shiftOperand x y >>> 1) (lowBit (s.shiftOperand x y))
  | .subn x y => s.writeResultAndFlag x (s.reg y - s.reg x) (noBorrow (s.reg y) (s.reg x))
  | .shl x y => s.writeResultAndFlag x (s.shiftOperand x y <<< 1) (highBit (s.shiftOperand x y))
  | .sneReg x y _ => s.skipIf (s.reg x != s.reg y)
  | .ldI nnn => s.setI (addrOf nnn)
  | .jpV0 nnn => s.setPc (s.indexedTarget nnn)
  | .rnd x kk => s.drawRandom.setReg x (s.nextRandom &&& kk)
  | .drw x y n => s.drawSprite x y n
  | .skp x => s.sampleKeys.skipIf (s.sampleKeys.keyMatches (s.reg x))
  | .sknp x => s.sampleKeys.skipIf (!s.sampleKeys.keyMatches (s.reg x))
  | .ldVxDt x => s.setReg x s.dt
  | .ldVxK x => s.sampleKeys.takeKeyOrRewind x
  | .ldDtVx x => s.setDt (s.reg x)
  | .ldStVx x => s.setSt (s.reg x)
  | .addIVx x => s.setI (s.i + (s.reg x).setWidth 16)
  | .ldFVx x => s.setI (glyphAddr (fontDigitOf s.params (s.reg x)))
  | .ldBVx x => s.writeBytes s.i.toNat (bcdDigits (s.reg x))
  | .ldMemVx x => (s.writeBytes s.i.toNat (s.regsUpTo x)).afterTransfer x
  | .ldVxMem x => (s.setRegs 0 (s.readBytes s.i.toNat (x.toNat + 1))).afterTransfer x

/-- The value `waiting` ends with (R94). -/
def waits (i : Instr) (s : State) : Bool :=
  match i with
  | .ldVxK _ => s.nextKey.isNone
  | _ => false

theorem guarded_eq (found : Option (FaultKind × Nat)) (i : Instr) (s run : State) :
    guarded found i s run = .next (match found.map fun f => (f.1, some f.2) with
      | some (kind, addr) => faulted s kind addr i
      | none => run.setWaiting false) := by
  cases found <;> rfl

/-- The normal form of `exec`. -/
theorem exec_eq (i : Instr) (s : State) :
    exec i s = .next (match blocked i s with
      | some (kind, addr) => faulted s kind addr i
      | none => (effect i s).setWaiting (waits i s)) := by
  cases i
  case ret x =>
    unfold exec execRet
    cases h : s.stack <;> simp [blocked, h, effect, waits, complete_eq, raise_eq]
  case sys nnn =>
    unfold exec execSys
    cases h : s.params.sysPolicy <;> simp [blocked, h, effect, waits, complete_eq, raise_eq]
  case call nnn =>
    unfold exec execCall
    by_cases h : s.sp < s.params.stackDepth <;>
      simp [blocked, h, effect, waits, complete_eq, raise_eq]
  case drw x y n => exact guarded_eq _ _ _ _
  case ldBVx x => exact guarded_eq _ _ _ _
  case ldMemVx x => exact guarded_eq _ _ _ _
  case ldVxMem x => exact guarded_eq _ _ _ _
  case ldVxK x =>
    show Host.Outcome.next _ = _
    simp only [blocked, effect, waits, State.sampleKeys_keyAsserted, Option.not_isSome]
  all_goals rfl

/-- What `exec` can do: a fault that changes nothing but the record, or the instruction's effect. -/
theorem exec_cases {i : Instr} {s t : State} (h : exec i s = .next t) :
    (∃ kind addr, blocked i s = some (kind, addr) ∧ t = faulted s kind addr i) ∨
      (blocked i s = none ∧ t = (effect i s).setWaiting (waits i s)) := by
  rw [exec_eq, Host.Outcome.next.injEq] at h
  cases hb : blocked i s with
  | none => exact .inr ⟨rfl, by rw [← h, hb]⟩
  | some f => exact .inl ⟨f.1, f.2, rfl, by rw [← h, hb]⟩

theorem exec_of_not_blocked {i : Instr} {s : State} (h : blocked i s = none) :
    exec i s = .next ((effect i s).setWaiting (waits i s)) := by
  rw [exec_eq, h]

theorem exec_of_blocked {i : Instr} {s : State} {kind : FaultKind} {addr : Option Nat}
    (h : blocked i s = some (kind, addr)) : exec i s = .next (faulted s kind addr i) := by
  rw [exec_eq, h]

/-! Fields an effect never writes. -/

@[simp] theorem effect_fault (i : Instr) (s : State) : (effect i s).fault = s.fault := by
  cases i <;> simp [effect]

@[simp] theorem effect_params (i : Instr) (s : State) : (effect i s).params = s.params := by
  cases i <;> simp [effect]

@[simp] theorem effect_frameSteps (i : Instr) (s : State) : (effect i s).frameSteps = s.frameSteps := by
  cases i <;> simp [effect]

/-- What a sample of the keys does to the model's record of the host's answers, in the terms the claims use. -/
theorem TakesOneKeySample.of_fields {s t : State} (hk : t.keyAnswers = s.keyAnswers.tail)
    (hd : t.draws = s.draws + 1) (hr : t.randomAnswers = s.randomAnswers) : TakesOneKeySample s t :=
  ⟨fun a rest h => ⟨by simp [State.nextKey, h], by simp [hk, h]⟩,
   fun h => ⟨by simp [State.nextKey, h], by simp [hk, h]⟩, hd, hr⟩

/-! Fields of the state a fault leaves. -/

@[simp] theorem faulted_pc (s : State) (k : FaultKind) (a : Option Nat) (i : Instr) :
    (faulted s k a i).pc = s.pc - 2#16 := rfl
@[simp] theorem faulted_fault (s : State) (k : FaultKind) (a : Option Nat) (i : Instr) :
    (faulted s k a i).fault = some ⟨k, s.pc - 2#16, some (encode i), a⟩ := rfl
@[simp] theorem faulted_params (s : State) (k : FaultKind) (a : Option Nat) (i : Instr) :
    (faulted s k a i).params = s.params := rfl
@[simp] theorem faulted_frameSteps (s : State) (k : FaultKind) (a : Option Nat) (i : Instr) :
    (faulted s k a i).frameSteps = s.frameSteps := rfl

/-- A fault of the instruction fetched at PC puts the state back as it was before the fetch, plus the record (R212). -/
theorem faulted_advance (s : State) (k : FaultKind) (a : Option Nat) (i : Instr) :
    faulted s.advance k a i = { s with fault := some ⟨k, s.pc, some (encode i), a⟩ } := by
  have h : s.pc + 2#16 - 2#16 = s.pc := by bv_omega
  simp only [faulted, State.advance_pc, h]
  rfl

/-! `execute_one` and the step. -/

theorem State.fetch_eq_some {s : State} {w : Word} :
    s.fetch = some w ↔ s.pc.toNat + 1 ≤ 0xFFF ∧
      w = wordOfBytes (s.readByte s.pc.toNat) (s.readByte (s.pc.toNat + 1)) := by
  unfold State.fetch State.readWord memorySize
  split
  · rename_i h
    have : s.pc.toNat + 1 ≤ 0xFFF := by omega
    simp [this, eq_comm]
  · rename_i h
    simp only [reduceCtorEq, false_iff, not_and]
    omega

theorem State.fetch_eq_none {s : State} : s.fetch = none ↔ 0xFFF < s.pc.toNat + 1 := by
  unfold State.fetch memorySize
  split <;> simp <;> omega

theorem decodes_iff {s : State} {i : Instr} :
    Decodes s i ↔ ∃ w, s.fetch = some w ∧ decode s.params.decodeMode w = .ok i := by
  constructor
  · rintro ⟨h, hd⟩
    exact ⟨_, State.fetch_eq_some.2 ⟨h, rfl⟩, hd⟩
  · rintro ⟨w, hw, hd⟩
    obtain ⟨h, rfl⟩ := State.fetch_eq_some.1 hw
    exact ⟨h, hd⟩

/-- Only one instruction decodes at PC. -/
theorem Decodes.unique {s : State} {i j : Instr} (hi : Decodes s i) (hj : Decodes s j) : i = j := by
  have := hi.2.symm.trans hj.2
  injection this

theorem executeOne_of_decodes {s : State} {i : Instr} (hf : s.fault = none) (hd : Decodes s i) :
    executeOne s = exec i s.advance := by
  obtain ⟨w, hw, hdec⟩ := decodes_iff.1 hd
  simp [executeOne, hf, hw, hdec]

theorem executeOne_of_fetch_none {s : State} (hf : s.fault = none) (hw : s.fetch = none) :
    executeOne s = .next (s.halt s.fetchFaultRecord) := by
  simp [executeOne, hf, hw]

theorem executeOne_of_illegal {s : State} {w : Word} (hf : s.fault = none) (hw : s.fetch = some w)
    (hd : decodeClass s.params.decodeMode w = none) : executeOne s = .next (s.halt (s.illegalRecord w)) := by
  have hd' := decode_eq_error.2 ⟨hd, rfl⟩
  simp [executeOne, hf, hw, hd']

/-- What `execute_one` can do (R90): a fetch fault, an illegal word, or the decoded instruction. -/
theorem executeOne_cases {s t : State} (h : executeOne s = .next t) :
    s.fault = none ∧
    ((0xFFF < s.pc.toNat + 1 ∧ t = s.halt s.fetchFaultRecord) ∨
     (∃ w, s.fetch = some w ∧ decodeClass s.params.decodeMode w = none ∧ t = s.halt (s.illegalRecord w)) ∨
     (∃ i, Decodes s i ∧ exec i s.advance = .next t)) := by
  unfold executeOne at h
  cases hf : s.fault with
  | some r => simp [hf] at h
  | none =>
    simp only [hf] at h
    refine ⟨rfl, ?_⟩
    cases hw : s.fetch with
    | none =>
      simp only [hw, Host.Outcome.next.injEq] at h
      exact .inl ⟨State.fetch_eq_none.1 hw, h.symm⟩
    | some w =>
      simp only [hw] at h
      cases hd : decode s.params.decodeMode w with
      | error r =>
        simp only [hd, Host.Outcome.next.injEq] at h
        exact .inr (.inl ⟨w, rfl, (decode_eq_error.1 hd).1, h.symm⟩)
      | ok i =>
        simp only [hd] at h
        exact .inr (.inr ⟨i, decodes_iff.2 ⟨w, hw, hd⟩, h⟩)

/-- A running core's `execute_one` gives a next state. -/
theorem executeOne_next {s : State} (hf : s.fault = none) : ∃ t, executeOne s = .next t := by
  unfold executeOne
  simp only [hf]
  cases hw : s.fetch with
  | none => exact ⟨_, rfl⟩
  | some w =>
    cases hd : decode s.params.decodeMode w with
    | error r => simp only [hd]; exact ⟨_, rfl⟩
    | ok i => simp only [hd]; exact ⟨_, exec_eq i s.advance⟩

/-- A step is an `execute_one` and what its frame does after it. -/
theorem step_eq_next {s u : State} : step s = .next u ↔ ∃ t, executeOne s = .next t ∧ u = t.afterStep := by
  unfold step stepInFrame
  cases executeOne s <;> simp [eq_comm]

/-! What a frame does after a step (R95). -/

theorem afterStep_of_fault {t : State} {r : FaultRecord} (h : t.fault = some r) : t.afterStep = t := by
  unfold State.afterStep
  simp only [h, Option.isNone_some, Bool.false_and, Bool.false_eq_true, if_false, Option.isSome_some, if_true]
  rw [← h]

theorem afterStep_inside {t : State} (h : t.fault = none) (hlt : t.frameSteps + 1 < t.params.ipf) :
    t.afterStep = { t with frameSteps := t.frameSteps + 1 } := by
  have he : t.endsFrame = false := by simp [State.endsFrame]; omega
  unfold State.afterStep
  simp only [he, Bool.and_false, Bool.false_eq_true, if_false, h, Option.isSome_none]

theorem afterStep_last {t : State} (h : t.fault = none) (hle : t.params.ipf ≤ t.frameSteps + 1) :
    t.afterStep = { t.timerTick with frameSteps := 0 } := by
  have he : t.endsFrame = true := by simp [State.endsFrame]; omega
  unfold State.afterStep
  simp only [he, h, Option.isNone_none, Bool.and_true, if_true, Option.isSome_none, Bool.false_eq_true, if_false]
  rw [← h]
  rfl

/-- A run of `k + 1` steps whose first gives `t` is a run of `k` steps from `t`. -/
theorem run_succ_of_next {s t : State} (k : Nat) (h : step s = .next t) :
    Host.Core.run Sys2Proof.core (k + 1) s = Host.Core.run Sys2Proof.core k t := by
  have h' : Sys2Proof.core.step s = .next t := h
  simp only [Host.Core.run, h']

end Sys2Proof.Machine
end

