-- ==== Sys2Proof/Laws/Flags.lean ====
section
/-! SUPPORT. The flag computations as facts about naturals, and what the write of a result and its flag leaves (R101). -/

namespace Sys2Proof.Machine

@[simp] theorem toNat_flagByte (f : Bool) : (flagByte f).toNat = f.toNat := by
  cases f <;> rfl

theorem carryOf_eq (a b : Byte) : carryOf a b = decide (a.toNat + b.toNat > 255) := rfl

theorem noBorrow_eq (a b : Byte) : noBorrow a b = decide (a.toNat ≥ b.toNat) := rfl

theorem lowBit_eq (b : Byte) : lowBit b = decide (b.toNat % 2 = 1) := by
  unfold lowBit
  rw [← BitVec.testBit_toNat, Nat.testBit_zero]

theorem highBit_eq (b : Byte) : highBit b = decide (128 ≤ b.toNat) := by
  unfold highBit
  rw [← BitVec.testBit_toNat, Nat.testBit_eq_decide_div_mod_eq]
  have := b.isLt
  congr 1
  apply propext
  omega

/-- The registers after the write of a result and its flag, in the terms the claims use. -/
theorem ResultAndFlag.of_write (s : State) (x : Nibble) (r : Byte) (f w : Bool) :
    ResultAndFlag s ((s.writeResultAndFlag x r f).setWaiting w) x r.toNat f := by
  simp only [ResultAndFlag, State.setWaiting_reg, State.reg_writeResultAndFlag]
  refine ⟨?_, ?_, ?_, ?_⟩
  · intro h
    simp [h, Ne.symm h]
  · rintro rfl h
    simp [h]
  · rintro rfl h
    simp [h]
  · intro j h1 h2
    simp [h1, h2]

/-- The write of a result and its flag changes registers only. -/
theorem OnlyRegistersChange.of_writeResultAndFlag (s : State) (x : Nibble) (r : Byte) (f : Bool) :
    OnlyRegistersChange s ((s.writeResultAndFlag x r f).setWaiting false) := by
  refine ⟨?_, fun a => by simp⟩
  unfold State.writeResultAndFlag
  split <;> rfl

end Sys2Proof.Machine
end

