-- ==== Sys2Proof/Laws/PerInstr.lean ====
section
/-! SUPPORT. One law per constructor of Instr: the encoder puts the fixed bits of the instruction's row of opcode_table.json where the row has them. -/

namespace Sys2Proof.Laws.TableRow

/-- The fixed fields of an instruction's row, each (hi, lo, value), as opcode_table.json gives them. -/
def fixedBits : Instr → List (Nat × Nat × Nat)
  | .cls _ => [(7, 0, 0xe0), (15, 12, 0x0)]
  | .ret _ => [(7, 0, 0xee), (15, 12, 0x0)]
  | .sys _ => [(15, 12, 0x0)]
  | .jp _ => [(15, 12, 0x1)]
  | .call _ => [(15, 12, 0x2)]
  | .seImm _ _ => [(15, 12, 0x3)]
  | .sneImm _ _ => [(15, 12, 0x4)]
  | .seReg _ _ _ => [(15, 12, 0x5)]
  | .ldImm _ _ => [(15, 12, 0x6)]
  | .addImm _ _ => [(15, 12, 0x7)]
  | .ldReg _ _ => [(3, 0, 0x0), (15, 12, 0x8)]
  | .orReg _ _ => [(3, 0, 0x1), (15, 12, 0x8)]
  | .andReg _ _ => [(3, 0, 0x2), (15, 12, 0x8)]
  | .xorReg _ _ => [(3, 0, 0x3), (15, 12, 0x8)]
  | .addReg _ _ => [(3, 0, 0x4), (15, 12, 0x8)]
  | .sub _ _ => [(3, 0, 0x5), (15, 12, 0x8)]
  | .shr _ _ => [(3, 0, 0x6), (15, 12, 0x8)]
  | .subn _ _ => [(3, 0, 0x7), (15, 12, 0x8)]
  | .shl _ _ => [(3, 0, 0xe), (15, 12, 0x8)]
  | .sneReg _ _ _ => [(15, 12, 0x9)]
  | .ldI _ => [(15, 12, 0xa)]
  | .jpV0 _ => [(15, 12, 0xb)]
  | .rnd _ _ => [(15, 12, 0xc)]
  | .drw _ _ _ => [(15, 12, 0xd)]
  | .skp _ => [(7, 0, 0x9e), (15, 12, 0xe)]
  | .sknp _ => [(7, 0, 0xa1), (15, 12, 0xe)]
  | .ldVxDt _ => [(7, 0, 0x7), (15, 12, 0xf)]
  | .ldVxK _ => [(7, 0, 0xa), (15, 12, 0xf)]
  | .ldDtVx _ => [(7, 0, 0x15), (15, 12, 0xf)]
  | .ldStVx _ => [(7, 0, 0x18), (15, 12, 0xf)]
  | .addIVx _ => [(7, 0, 0x1e), (15, 12, 0xf)]
  | .ldFVx _ => [(7, 0, 0x29), (15, 12, 0xf)]
  | .ldBVx _ => [(7, 0, 0x33), (15, 12, 0xf)]
  | .ldMemVx _ => [(7, 0, 0x55), (15, 12, 0xf)]
  | .ldVxMem _ => [(7, 0, 0x65), (15, 12, 0xf)]

/-- The word of `i` holds the fixed bits of its row. -/
def Statement (i : Instr) : Prop :=
  ∀ f ∈ fixedBits i, (encode i).toNat / 2 ^ f.2.1 % 2 ^ (f.1 - f.2.1 + 1) = f.2.2

theorem cls (x : Nibble) : Statement (.cls x) := by
  simp [Statement, fixedBits, encode, toNat_formatXK]
  omega
theorem ret (x : Nibble) : Statement (.ret x) := by
  simp [Statement, fixedBits, encode, toNat_formatXK]
  omega
theorem sys (nnn : Addr12) : Statement (.sys nnn) := by
  simp [Statement, fixedBits, encode, toNat_formatA]
  omega
theorem jp (nnn : Addr12) : Statement (.jp nnn) := by
  simp [Statement, fixedBits, encode, toNat_formatA]
  omega
theorem call (nnn : Addr12) : Statement (.call nnn) := by
  simp [Statement, fixedBits, encode, toNat_formatA]
  omega
theorem seImm (x : Nibble) (kk : Byte) : Statement (.seImm x kk) := by
  simp [Statement, fixedBits, encode, toNat_formatXK]
  omega
theorem sneImm (x : Nibble) (kk : Byte) : Statement (.sneImm x kk) := by
  simp [Statement, fixedBits, encode, toNat_formatXK]
  omega
theorem seReg (x : Nibble) (y : Nibble) (n : Nibble) : Statement (.seReg x y n) := by
  simp [Statement, fixedBits, encode, toNat_formatXY]
  omega
theorem ldImm (x : Nibble) (kk : Byte) : Statement (.ldImm x kk) := by
  simp [Statement, fixedBits, encode, toNat_formatXK]
  omega
theorem addImm (x : Nibble) (kk : Byte) : Statement (.addImm x kk) := by
  simp [Statement, fixedBits, encode, toNat_formatXK]
  omega
theorem ldReg (x : Nibble) (y : Nibble) : Statement (.ldReg x y) := by
  simp [Statement, fixedBits, encode, toNat_formatXY]
  omega
theorem orReg (x : Nibble) (y : Nibble) : Statement (.orReg x y) := by
  simp [Statement, fixedBits, encode, toNat_formatXY]
  omega
theorem andReg (x : Nibble) (y : Nibble) : Statement (.andReg x y) := by
  simp [Statement, fixedBits, encode, toNat_formatXY]
  omega
theorem xorReg (x : Nibble) (y : Nibble) : Statement (.xorReg x y) := by
  simp [Statement, fixedBits, encode, toNat_formatXY]
  omega
theorem addReg (x : Nibble) (y : Nibble) : Statement (.addReg x y) := by
  simp [Statement, fixedBits, encode, toNat_formatXY]
  omega
theorem sub (x : Nibble) (y : Nibble) : Statement (.sub x y) := by
  simp [Statement, fixedBits, encode, toNat_formatXY]
  omega
theorem shr (x : Nibble) (y : Nibble) : Statement (.shr x y) := by
  simp [Statement, fixedBits, encode, toNat_formatXY]
  omega
theorem subn (x : Nibble) (y : Nibble) : Statement (.subn x y) := by
  simp [Statement, fixedBits, encode, toNat_formatXY]
  omega
theorem shl (x : Nibble) (y : Nibble) : Statement (.shl x y) := by
  simp [Statement, fixedBits, encode, toNat_formatXY]
  omega
theorem sneReg (x : Nibble) (y : Nibble) (n : Nibble) : Statement (.sneReg x y n) := by
  simp [Statement, fixedBits, encode, toNat_formatXY]
  omega
theorem ldI (nnn : Addr12) : Statement (.ldI nnn) := by
  simp [Statement, fixedBits, encode, toNat_formatA]
  omega
theorem jpV0 (nnn : Addr12) : Statement (.jpV0 nnn) := by
  simp [Statement, fixedBits, encode, toNat_formatA]
  omega
theorem rnd (x : Nibble) (kk : Byte) : Statement (.rnd x kk) := by
  simp [Statement, fixedBits, encode, toNat_formatXK]
  omega
theorem drw (x : Nibble) (y : Nibble) (n : Nibble) : Statement (.drw x y n) := by
  simp [Statement, fixedBits, encode, toNat_formatXY]
  omega
theorem skp (x : Nibble) : Statement (.skp x) := by
  simp [Statement, fixedBits, encode, toNat_formatXK]
  omega
theorem sknp (x : Nibble) : Statement (.sknp x) := by
  simp [Statement, fixedBits, encode, toNat_formatXK]
  omega
theorem ldVxDt (x : Nibble) : Statement (.ldVxDt x) := by
  simp [Statement, fixedBits, encode, toNat_formatXK]
  omega
theorem ldVxK (x : Nibble) : Statement (.ldVxK x) := by
  simp [Statement, fixedBits, encode, toNat_formatXK]
  omega
theorem ldDtVx (x : Nibble) : Statement (.ldDtVx x) := by
  simp [Statement, fixedBits, encode, toNat_formatXK]
  omega
theorem ldStVx (x : Nibble) : Statement (.ldStVx x) := by
  simp [Statement, fixedBits, encode, toNat_formatXK]
  omega
theorem addIVx (x : Nibble) : Statement (.addIVx x) := by
  simp [Statement, fixedBits, encode, toNat_formatXK]
  omega
theorem ldFVx (x : Nibble) : Statement (.ldFVx x) := by
  simp [Statement, fixedBits, encode, toNat_formatXK]
  omega
theorem ldBVx (x : Nibble) : Statement (.ldBVx x) := by
  simp [Statement, fixedBits, encode, toNat_formatXK]
  omega
theorem ldMemVx (x : Nibble) : Statement (.ldMemVx x) := by
  simp [Statement, fixedBits, encode, toNat_formatXK]
  omega
theorem ldVxMem (x : Nibble) : Statement (.ldVxMem x) := by
  simp [Statement, fixedBits, encode, toNat_formatXK]
  omega

end Sys2Proof.Laws.TableRow
end

