-- ==== Sys2Proof/Machine/Assembly.lean ====
section
/-! DEFINITION. The assembler syntax of 30_encoding.md R79 as a function on instructions. The words are normative and the syntax is a reading aid: nothing else of the model uses it. The nibbles that decoding does not examine are not written (log 10). -/

namespace Sys2Proof

/-- A hex digit (R5). -/
def hexDigit (n : Nat) : String :=
  ["0", "1", "2", "3", "4", "5", "6", "7", "8", "9", "A", "B", "C", "D", "E", "F"].getD (n % 16) ""

/-- A register operand, `V0`..`VF`. -/
def regSyntax (x : Nibble) : String := "V" ++ hexDigit x.toNat

/-- `byte`, two hex digits. -/
def byteSyntax (kk : Byte) : String := "0x" ++ hexDigit (kk.toNat / 16) ++ hexDigit kk.toNat

/-- `addr`, three hex digits. -/
def addrSyntax (nnn : Addr12) : String :=
  "0x" ++ hexDigit (nnn.toNat / 256) ++ hexDigit (nnn.toNat / 16) ++ hexDigit nnn.toNat

/-- `nibble`, a decimal number. -/
def nibbleSyntax (n : Nibble) : String := Nat.repr n.toNat

/-- A mnemonic with one operand. -/
def syntax1 (m a : String) : String := m ++ " " ++ a

/-- A mnemonic with two operands. -/
def syntax2 (m a b : String) : String := m ++ " " ++ a ++ ", " ++ b

/-- The table of R79. -/
def Instr.assembly : Instr → String
  | .cls _ => "CLS"
  | .ret _ => "RET"
  | .sys nnn => syntax1 "SYS" (addrSyntax nnn)
  | .jp nnn => syntax1 "JP" (addrSyntax nnn)
  | .call nnn => syntax1 "CALL" (addrSyntax nnn)
  | .seImm x kk => syntax2 "SE" (regSyntax x) (byteSyntax kk)
  | .sneImm x kk => syntax2 "SNE" (regSyntax x) (byteSyntax kk)
  | .seReg x y _ => syntax2 "SE" (regSyntax x) (regSyntax y)
  | .ldImm x kk => syntax2 "LD" (regSyntax x) (byteSyntax kk)
  | .addImm x kk => syntax2 "ADD" (regSyntax x) (byteSyntax kk)
  | .ldReg x y => syntax2 "LD" (regSyntax x) (regSyntax y)
  | .orReg x y => syntax2 "OR" (regSyntax x) (regSyntax y)
  | .andReg x y => syntax2 "AND" (regSyntax x) (regSyntax y)
  | .xorReg x y => syntax2 "XOR" (regSyntax x) (regSyntax y)
  | .addReg x y => syntax2 "ADD" (regSyntax x) (regSyntax y)
  | .sub x y => syntax2 "SUB" (regSyntax x) (regSyntax y)
  | .shr x y => syntax2 "SHR" (regSyntax x) (regSyntax y)
  | .subn x y => syntax2 "SUBN" (regSyntax x) (regSyntax y)
  | .shl x y => syntax2 "SHL" (regSyntax x) (regSyntax y)
  | .sneReg x y _ => syntax2 "SNE" (regSyntax x) (regSyntax y)
  | .ldI nnn => syntax2 "LD" "I" (addrSyntax nnn)
  | .jpV0 nnn => syntax2 "JP" "V0" (addrSyntax nnn)
  | .rnd x kk => syntax2 "RND" (regSyntax x) (byteSyntax kk)
  | .drw x y n => syntax2 "DRW" (regSyntax x) (regSyntax y) ++ ", " ++ nibbleSyntax n
  | .skp x => syntax1 "SKP" (regSyntax x)
  | .sknp x => syntax1 "SKNP" (regSyntax x)
  | .ldVxDt x => syntax2 "LD" (regSyntax x) "DT"
  | .ldVxK x => syntax2 "LD" (regSyntax x) "K"
  | .ldDtVx x => syntax2 "LD" "DT" (regSyntax x)
  | .ldStVx x => syntax2 "LD" "ST" (regSyntax x)
  | .addIVx x => syntax2 "ADD" "I" (regSyntax x)
  | .ldFVx x => syntax2 "LD" "F" (regSyntax x)
  | .ldBVx x => syntax2 "LD" "B" (regSyntax x)
  | .ldMemVx x => syntax2 "LD" "[I]" (regSyntax x)
  | .ldVxMem x => syntax2 "LD" (regSyntax x) "[I]"

end Sys2Proof
end

