-- ==== Sys2Proof/Tests/Slice0.lean ====
section
/-! SUPPORT. Tests. Expected results are those of spec/95_test_vectors.md (V-…), of the worked examples of the rules, or cut by hand from the encodings of 30_encoding.md. After them, for each obligation with hypotheses, states and operands that meet them all. -/

namespace Sys2Proof.Tests

open Machine

/-! WellFormed refuses an ill-formed term of each kind it checks. -/

theorem smoke_source_sys_is_not_cls : WellFormed .source (.sys 0x3E0) = false := by decide
theorem smoke_source_sys_is_not_ret : WellFormed .source (.sys 0x0EE) = false := by decide
theorem smoke_strict_sys_is_not_cls : WellFormed .strict (.sys 0x0E0) = false := by decide
theorem smoke_strict_sys_is_not_ret : WellFormed .strict (.sys 0x0EE) = false := by decide
theorem smoke_strict_cls_high_nibble : WellFormed .strict (.cls 1) = false := by decide
theorem smoke_strict_ret_high_nibble : WellFormed .strict (.ret 0xF) = false := by decide
theorem smoke_strict_seReg_low_nibble : WellFormed .strict (.seReg 1 2 3) = false := by decide
theorem smoke_strict_sneReg_low_nibble : WellFormed .strict (.sneReg 1 2 1) = false := by decide
theorem smoke_well_formed : WellFormed .strict (.sys 0x1E0) = true ∧ WellFormed .source (.seReg 1 2 3) = true := by decide

/-! Decoding, each word written out bit by bit from its encoding, every constructor once. -/

theorem test_decode_group0 :
    decode .source 0b0000000011100000#16 = .ok (.cls 0x0) ∧
    decode .source 0b0000000011101110#16 = .ok (.ret 0x0) ∧
    decode .source 0b0000000100100011#16 = .ok (.sys 0x123) := by decide
theorem test_decode_jumps :
    decode .source 0b0001101010111100#16 = .ok (.jp 0xABC) ∧
    decode .source 0b0010001000001100#16 = .ok (.call 0x20C) ∧
    decode .source 0b1011001100000000#16 = .ok (.jpV0 0x300) := by decide
theorem test_decode_skips :
    decode .source 0b0011001100010000#16 = .ok (.seImm 0x3 0x10) ∧
    decode .source 0b0100001100010001#16 = .ok (.sneImm 0x3 0x11) ∧
    decode .source 0b0101000100100011#16 = .ok (.seReg 0x1 0x2 0x3) ∧
    decode .source 0b1001000100100000#16 = .ok (.sneReg 0x1 0x2 0x0) := by decide
theorem test_decode_immediates :
    decode .source 0b0110101000000010#16 = .ok (.ldImm 0xA 0x02) ∧
    decode .source 0b0111101000000101#16 = .ok (.addImm 0xA 0x05) ∧
    decode .source 0b1010001100000001#16 = .ok (.ldI 0x301) ∧
    decode .source 0b1100001100001111#16 = .ok (.rnd 0x3 0x0F) ∧
    decode .source 0b1101000001010011#16 = .ok (.drw 0x0 0x5 0x3) := by decide
theorem test_decode_logic :
    decode .source 0b1000000100100000#16 = .ok (.ldReg 0x1 0x2) ∧
    decode .source 0b1000000100100001#16 = .ok (.orReg 0x1 0x2) ∧
    decode .source 0b1000000100100010#16 = .ok (.andReg 0x1 0x2) ∧
    decode .source 0b1000000100100011#16 = .ok (.xorReg 0x1 0x2) := by decide
theorem test_decode_arith :
    decode .source 0b1000000100100100#16 = .ok (.addReg 0x1 0x2) ∧
    decode .source 0b1000000100100101#16 = .ok (.sub 0x1 0x2) ∧
    decode .source 0b1000000100100110#16 = .ok (.shr 0x1 0x2) ∧
    decode .source 0b1000000100100111#16 = .ok (.subn 0x1 0x2) ∧
    decode .source 0b1000000100101110#16 = .ok (.shl 0x1 0x2) := by decide
theorem test_decode_keys :
    decode .source 0b1110001010011110#16 = .ok (.skp 0x2) ∧
    decode .source 0b1110001010100001#16 = .ok (.sknp 0x2) ∧
    decode .source 0b1111000000001010#16 = .ok (.ldVxK 0x0) := by decide
theorem test_decode_timers :
    decode .source 0b1111001100000111#16 = .ok (.ldVxDt 0x3) ∧
    decode .source 0b1111001100010101#16 = .ok (.ldDtVx 0x3) ∧
    decode .source 0b1111010000011000#16 = .ok (.ldStVx 0x4) := by decide
theorem test_decode_index :
    decode .source 0b1111010100011110#16 = .ok (.addIVx 0x5) ∧
    decode .source 0b1111011100101001#16 = .ok (.ldFVx 0x7) ∧
    decode .source 0b1111101100110011#16 = .ok (.ldBVx 0xB) ∧
    decode .source 0b1111001001010101#16 = .ok (.ldMemVx 0x2) ∧
    decode .source 0b1111001001100101#16 = .ok (.ldVxMem 0x2) := by decide
theorem test_decode_illegal :
    decode .source 0x8128 = .error (.unimplemented 0x8128) ∧
    decode .source 0xE1FF = .error (.unimplemented 0xE1FF) ∧
    decode .source 0xF1FF = .error (.unimplemented 0xF1FF) ∧
    decode .strict 0x5123 = .error (.unimplemented 0x5123) ∧
    decode .strict 0x9121 = .error (.unimplemented 0x9121) := by decide
theorem test_decode_strict_group0 :
    decode .source 0x01E0 = .ok (.cls 1) ∧ decode .strict 0x01E0 = .ok (.sys 0x1E0) := by decide
theorem test_decode_truncated : decodeBytes .source [0x6A] = .error .truncated := by decide

/-! One step on a small state. -/

/-- Construction with the defaults, a frame being four steps. -/
def base : State := { State.reset with params := { defaultParams with ipf := 4 } }

/-- `base` with some registers set and the word `w` at PC. -/
def given (w : Nat) (rs : List (Nibble × Byte)) : State :=
  rs.foldl (fun s r => s.setReg r.1 r.2) (base.withFetchWord 16 w)

/-- The state after one `execute_one`, or the same state when it does not go on. -/
def next (s : State) : State :=
  match executeOne s with
  | .next t => t
  | .fault _ => s
  | .refused _ => s

/-- The record one `execute_one` leaves, and PC after it. -/
def recordAfter (s : State) : Option FaultRecord × Word := ((next s).fault, (next s).pc)

/-- `s` with other parameters. -/
def under (p : Params → Params) (s : State) : State := { s with params := p s.params }

/-- Registers x and VF, and PC, after one `execute_one`. -/
def regsAfter (s : State) (x : Nibble) : Byte × Byte × Word := ((next s).reg x, (next s).reg vf, (next s).pc)

/-- V-DSP-1, and the source's own 6A02. -/
theorem test_ldImm : regsAfter (given 0x6A02 []) 0xA = (0x02, 0, 0x202) := by decide
/-- V-LD-1. -/
theorem test_ldImm_vf : regsAfter (given 0x6F55 []) 0xF = (0x55, 0x55, 0x202) := by decide
/-- V-ADDI-2: wraps, VF kept. -/
theorem test_addImm_wraps : regsAfter (given 0x7101 [(1, 0xFF), (0xF, 7)]) 1 = (0, 7, 0x202) := by decide
/-- V-ADDI-3. -/
theorem test_addImm_vf : regsAfter (given 0x7F01 [(0xF, 0x10)]) 0xF = (0x11, 0x11, 0x202) := by decide
/-- V-LDR-1. -/
theorem test_ldReg : regsAfter (given 0x8120 [(2, 0x5A)]) 1 = (0x5A, 0, 0x202) := by decide
/-- V-OR-1: VF kept. -/
theorem test_or : regsAfter (given 0x8121 [(1, 0x0F), (2, 0xF0), (0xF, 1)]) 1 = (0xFF, 1, 0x202) := by decide
/-- V-AND-1. -/
theorem test_and : regsAfter (given 0x8122 [(1, 0x3C), (2, 0x0F)]) 1 = (0x0C, 0, 0x202) := by decide
/-- V-XOR-1. -/
theorem test_xor : regsAfter (given 0x8123 [(1, 0xFF), (2, 0x0F)]) 1 = (0xF0, 0, 0x202) := by decide
/-- V-ADD-6: VF as source, read before it is written. -/
theorem test_add_reads_vf : regsAfter (given 0x81F4 [(1, 0x10), (0xF, 1)]) 1 = (0x11, 0, 0x202) := by decide
/-- V-ADD-7 and V-ADD-8: VF as destination under both orders. -/
theorem test_add_into_vf : regsAfter (given 0x8F14 [(1, 0xFF), (0xF, 1)]) 0xF = (0, 0, 0x202) ∧
    regsAfter (under ({ · with vfOrder := .flagLast }) (given 0x8F14 [(1, 0xFF), (0xF, 1)])) 0xF = (1, 1, 0x202) := by decide
/-- V-SUB-3: equal operands, no borrow. -/
theorem test_sub_equal : regsAfter (given 0x8125 [(1, 0x42), (2, 0x42)]) 1 = (0, 1, 0x202) := by decide
/-- V-SUB-4: borrow. -/
theorem test_sub_borrow : regsAfter (given 0x8125 [(2, 1)]) 1 = (0xFF, 0, 0x202) := by decide
/-- V-SUBN-1. -/
theorem test_subn : regsAfter (given 0x8127 [(1, 3), (2, 5)]) 1 = (2, 1, 0x202) := by decide
/-- V-SUBN-2: borrow. -/
theorem test_subn_borrow : regsAfter (given 0x8127 [(1, 5), (2, 3)]) 1 = (0xFE, 0, 0x202) := by decide
/-- V-SHR-1. -/
theorem test_shr : regsAfter (given 0x8106 [(1, 5)]) 1 = (2, 1, 0x202) := by decide
/-- V-SHR-5 and V-SHR-6. -/
theorem test_shr_source : regsAfter (given 0x8126 [(2, 3)]) 1 = (0, 0, 0x202) ∧
    regsAfter (under ({ · with shiftSource := .vy }) (given 0x8126 [(2, 3)])) 1 = (1, 1, 0x202) := by decide
/-- V-SHL-1. -/
theorem test_shl : regsAfter (given 0x810E [(1, 0x81)]) 1 = (2, 1, 0x202) := by decide
/-- V-SHL-6. -/
theorem test_shl_source :
    regsAfter (under ({ · with shiftSource := .vy }) (given 0x812E [(1, 1), (2, 0x80)])) 1 = (0, 1, 0x202) := by decide
/-- V-RND-1. -/
theorem test_rnd : regsAfter { given 0xC30F [] with randomAnswers := [0xAB] } 3 = (0x0B, 0, 0x202) := by decide
/-- V-RND-2: a zero mask gives 0 whatever the byte. -/
theorem test_rnd_zero_mask : regsAfter { given 0xC300 [(3, 0x77)] with randomAnswers := [0xFF] } 3 = (0, 0, 0x202) := by decide

/-- V-SYS-1. -/
theorem test_sys_fault : recordAfter (given 0x0123 []) =
    (some ⟨.unimplementedInstruction, 0x200, some 0x0123, none⟩, 0x200) := by decide
/-- V-SYS-2. -/
theorem test_sys_nop : recordAfter (under ({ · with sysPolicy := .nop }) (given 0x0123 [])) = (none, 0x202) := by decide
/-- V-RET-1. -/
theorem test_ret : ((next { given 0x00EE [] with stack := [0x204] }).pc, (next { given 0x00EE [] with stack := [0x204] }).sp) =
    (0x204, 0) := by decide
/-- V-RET-2. -/
theorem test_ret_empty : recordAfter (given 0x00EE []) =
    (some ⟨.stackUnderflow, 0x200, some 0x00EE, none⟩, 0x200) := by decide
/-- V-JP-3: an odd target. -/
theorem test_jp : (next (given 0x1301 [])).pc = 0x301 := by decide
/-- V-CALL-2: the last free entry. -/
theorem test_call_last : (next { given 0x2300 [] with stack := List.replicate 47 0x202 }).pc = 0x300 ∧
    (next { given 0x2300 [] with stack := List.replicate 47 0x202 }).stackEntry 47 = some 0x202 := by decide
/-- V-CALL-3. -/
theorem test_call_full : recordAfter { given 0x2300 [] with stack := List.replicate 48 0x202 } =
    (some ⟨.stackOverflow, 0x200, some 0x2300, none⟩, 0x200) := by decide
/-- V-SE-1, V-SE-2. -/
theorem test_seImm : (next (given 0x3310 [(3, 0x10)])).pc = 0x204 ∧ (next (given 0x3310 [(3, 0x11)])).pc = 0x202 := by decide
/-- V-SNE-1, V-SNE-2. -/
theorem test_sneImm : (next (given 0x4310 [(3, 0x11)])).pc = 0x204 ∧ (next (given 0x4310 [(3, 0x10)])).pc = 0x202 := by decide
/-- V-DSP-9, V-SER-2. -/
theorem test_seReg : (next (given 0x5123 [(1, 7), (2, 7)])).pc = 0x204 ∧ (next (given 0x5120 [(1, 7), (2, 8)])).pc = 0x202 := by decide
/-- V-SNER-1 (at 0x200), V-SNER-2. -/
theorem test_sneReg : (next (given 0x9120 [(1, 7), (2, 8)])).pc = 0x204 ∧ (next (given 0x9120 [(1, 7), (2, 7)])).pc = 0x202 := by decide
/-- V-JPV0-2: the sum is not masked to 12 bits. -/
theorem test_jpV0 : (next (given 0xBFFF [(0, 0xFF)])).pc = 0x10FE := by decide
/-- V-JPV0-5: V0 whatever bits 11:8 are. -/
theorem test_jpV0_register : (next (given 0xB300 [(0, 4), (3, 0x40)])).pc = 0x304 := by decide

/-- The pixels that are on. -/
def pixelsOn (d : Display) : List (Nat × Nat) :=
  (List.range 64).flatMap fun x => ((List.range 32).filter (d.pixel x)).map fun y => (x, y)

/-- The pixels of glyph 0 at (0, 0) (P3). -/
def glyph0 : List (Nat × Nat) :=
  [(0, 0), (0, 1), (0, 2), (0, 3), (0, 4), (1, 0), (1, 4), (2, 0), (2, 4), (3, 0), (3, 1), (3, 2), (3, 3), (3, 4)]

/-- V-DSP-11: CLS, with the nibble `source` does not examine. -/
theorem test_cls : pixelsOn (next ((given 0x01E0 []).setFb (Display.clear.toggle 5 5))).fb = [] := by decide
/-- V-DRW-1. -/
theorem test_drw : pixelsOn (next (given 0xD005 [])).fb = glyph0 := by decide
/-- V-DRW-4: one pixel turned off, one on, the wanted order of bits. -/
theorem test_drw_collision :
    pixelsOn (next (({ given 0xD001 [] with i := 0x300 }.writeByte 0x300 0xC0).setFb (Display.clear.toggle 1 0))).fb = [(0, 0)] ∧
    (next (({ given 0xD001 [] with i := 0x300 }.writeByte 0x300 0xC0).setFb (Display.clear.toggle 1 0))).reg vf = 1 := by decide
/-- V-DT-1. -/
theorem test_ldVxDt : regsAfter { given 0xF307 [] with dt := 0x3C } 3 = (0x3C, 0, 0x202) := by decide
/-- V-DT-2. -/
theorem test_ldDtVx : (next (given 0xF315 [(3, 0x3C)])).dt = 0x3C := by decide
/-- V-ST-1, and `sound_on` of R232. -/
theorem test_ldStVx : (next (given 0xF418 [(4, 2)])).st = 2 ∧ (next (given 0xF418 [(4, 2)])).soundOn = true := by decide
/-- V-KEY-1. -/
theorem test_key_none : (next { given 0xF00A [] with keyAnswers := [none] }).pc = 0x200 ∧
    (next { given 0xF00A [] with keyAnswers := [none] }).waiting = true := by decide
/-- V-KEY-3. -/
theorem test_key : regsAfter { given 0xFF0A [] with keyAnswers := [some 0xB] } 0xF = (0x0B, 0x0B, 0x202) := by decide
/-- V-SKP-1, V-SKP-4 (at 0x200): the whole of Vx is compared. -/
theorem test_skp : (next { given 0xE29E [(2, 5)] with keyAnswers := [some 5] }).pc = 0x204 ∧
    (next { given 0xE29E [(2, 0x15)] with keyAnswers := [some 5] }).pc = 0x202 := by decide
/-- V-SKNP-1, V-SKNP-3 (at 0x200). -/
theorem test_sknp : (next { given 0xE2A1 [(2, 5)] with keyAnswers := [some 5] }).pc = 0x202 ∧
    (next { given 0xE2A1 [(2, 5)] with keyAnswers := [none] }).pc = 0x204 := by decide

/-- V-LDI-1. -/
theorem test_ldI : (next (given 0xA300 [])).i = 0x300 := by decide
/-- V-ADDI_I-2: no 12-bit wrap, VF not written. -/
theorem test_addIVx : (next { given 0xF51E [(5, 1)] with i := 0xFFF }).i = 0x1000 ∧
    (next { given 0xF51E [(5, 1)] with i := 0xFFF }).reg vf = 0 := by decide
/-- V-ADDI_I-3: the 16-bit wrap. -/
theorem test_addIVx_wraps : (next { given 0xF51E [(5, 1)] with i := 0xFFFF }).i = 0 := by decide
/-- V-FNT-1, V-FNT-3. -/
theorem test_ldFVx : (next (given 0xF729 [(7, 0x0A)])).i = 0x032 ∧ (next (given 0xF729 [(7, 0x10)])).i = 0x050 := by decide
/-- V-FNT-4. -/
theorem test_ldFVx_low_nibble :
    (next (under ({ · with fontDigit := .lowNibble }) (given 0xF729 [(7, 0x1A)]))).i = 0x032 := by decide
/-- V-BCD-1. -/
theorem test_ldBVx : (next { given 0xFB33 [(0xB, 0x7B)] with i := 0x300 }).readBytes 0x300 4 = [1, 2, 3, 0] := by decide
/-- V-BCD-5 and V-BCD-6. -/
theorem test_ldBVx_font :
    (next { given 0xFB33 [(0xB, 0x7B)] with i := 0x04E }).fault = some ⟨.readOnlyWrite, 0x200, some 0xFB33, some 0x04E⟩ ∧
    (next (under ({ · with fontWrite := .write }) { given 0xFB33 [(0xB, 0x7B)] with i := 0x04E })).readBytes 0x04E 3 =
      [1, 2, 3] := by decide
/-- V-STM-6: the store is the next word fetched. -/
theorem test_ldMemVx : (next { given 0xF155 [(0, 0x12), (1, 0x34)] with i := 0x202 }).fetch = some 0x1234 := by decide
/-- V-STM-4. -/
theorem test_ldMemVx_out_of_range : recordAfter { given 0xFF55 [] with i := 0xFF1 } =
    (some ⟨.addressOutOfRange, 0x200, some 0xFF55, some 0x1000⟩, 0x200) := by decide
/-- V-LDM-2: the default font. -/
theorem test_ldVxMem : (next (given 0xF465 [])).regsUpTo 5 = [0xF0, 0x90, 0x90, 0x90, 0xF0, 0] := by decide
/-- V-LDM-4. -/
theorem test_ldVxMem_advance :
    (next (under ({ · with ldstI := .advance }) ({ given 0xF265 [] with i := 0x300 }.writeBytes 0x300 [1, 2, 3]))).i = 0x303 := by decide

/-! Fetch, illegal words, construction, frames. -/

/-- V-DSP-2, V-DSP-3. -/
theorem test_fetch_at_the_end : (next ({ base with pc := 0xFFE }.withFetchWord 16 0x6A01)).pc = 0x1000 ∧
    recordAfter { base with pc := 0xFFF } = (some ⟨.addressOutOfRange, 0xFFF, none, some 0x1000⟩, 0xFFF) := by decide
/-- V-JPV0-3. -/
theorem test_fetch_beyond : recordAfter { base with pc := 0x10FE } =
    (some ⟨.addressOutOfRange, 0x10FE, none, some 0x10FE⟩, 0x10FE) := by decide
/-- V-DSP-6. -/
theorem test_illegal : recordAfter (given 0x8128 []) =
    (some ⟨.unimplementedInstruction, 0x200, some 0x8128, none⟩, 0x200) := by decide
/-- V-DSP-12. -/
theorem test_strict_cls_is_sys : recordAfter (under ({ · with decodeMode := .strict }) (given 0x01E0 [])) =
    (some ⟨.unimplementedInstruction, 0x200, some 0x01E0, none⟩, 0x200) := by decide

/-- V-CON-2, V-CON-3, V-CON-4: the bounds of a load. -/
theorem test_load_bounds : loadAccepted { base.params with startAddr := 0x04F } [] = false ∧
    loadAccepted base.params (List.replicate 3585 0) = false ∧
    loadAccepted base.params (List.replicate 3584 0) = true := by
  simp only [loadAccepted, List.length_replicate]
  decide
/-- V-CON-1: the image is at START_ADDR. -/
theorem test_construct : (construct base.params [0x6A, 0x02]).map (fun s => (s.pc, s.readBytes 0x1FF 4)) =
    some (0x200, [0, 0x6A, 0x02, 0]) := by decide
/-- V-TICK-1. -/
theorem test_frame_ticks :
    (frame (under ({ · with ipf := 1 }) { given 0x1200 [] with dt := 5, st := 1 })).1.dt = 4 ∧
    (frame (under ({ · with ipf := 1 }) { given 0x1200 [] with dt := 5, st := 1 })).1.soundOn = false := by decide
/-- V-TICK-3. -/
theorem test_frame_reloads :
    (frame (under ({ · with ipf := 1, timerUnderflow := .reload60 }) (given 0x1200 []))).1.dt = 0x3C := by decide
/-- V-FRM-4: an aborted frame has no tick. -/
theorem test_frame_faults : (frame { given 0x8128 [] with dt := 1 }).1.dt = 1 ∧
    (frame { given 0x8128 [] with dt := 1 }).2 = some ⟨.unimplementedInstruction, 0x200, some 0x8128, none⟩ := by decide

/-- R210: the codes 1 to 5 in the order of the table. -/
theorem test_fault_codes :
    [FaultKind.stackOverflow, .stackUnderflow, .unimplementedInstruction, .addressOutOfRange, .readOnlyWrite].map FaultKind.code =
      [1, 2, 3, 4, 5] := by decide
/-- Lines of the listings P1, P2 and P3. -/
theorem test_assembly :
    [Instr.ldImm 1 5, .seReg 0 1 0, .jp 0x20A, .ldVxMem 2, .ldBVx 0xB, .ldFVx 0, .drw 0 0 5].map Instr.assembly =
      ["LD V1, 0x05", "SE V0, V1", "JP 0x20A", "LD V2, [I]", "LD B, VB", "LD F, V0", "DRW V0, V0, 5"] := by decide

/-! What the host asks: the row's instruction is decoded and the first step after reset runs it. -/

theorem test_table_word : decodeTableWord 16 0x8125 = some (.sub 1 2) ∧ decodeTableWord 16 0x8128 = none := by decide
theorem test_fetch_word_after_reset : (State.reset.withFetchWord 16 0xD015).fetch = some 0xD015 := by decide

/-! Witnesses: for each obligation with hypotheses, states and operands that meet all of them, at the ends of their ranges where the clauses meet. -/

theorem witness_DecodeOfEncodeIsInstruction : WellFormed .source (.seReg 0xF 0xF 0xF) = true ∧
    WellFormed .strict (.sys 0xFFF) = true := by decide
theorem witness_EncodeOfDecodeIsWord : decode .source 0xFF65 = .ok (.ldVxMem 0xF) ∧
    decode .strict 0x0000 = .ok (.sys 0) := by decide
/-- An illegal word at the last fetchable address. -/
theorem witness_IllegalWordsAreExactlyTheListed : ∃ s : State, s.fault = none ∧ s.pc.toNat + 1 ≤ 0xFFF ∧
    ∀ i, decode s.params.decodeMode
      (wordOfBytes (s.readByte s.pc.toNat) (s.readByte (s.pc.toNat + 1))) ≠ .ok i := by
  refine ⟨{ base with pc := 0xFFE }.withFetchWord 16 0x812F, by decide, by decide, fun i h => ?_⟩
  rw [show decode _ _ = .error (.unimplemented 0x812F) by decide] at h
  cases h
/-- A word of each group, and a state in which `strict` decodes to SYS what `source` decodes to CLS. -/
theorem witness_StrictDecodingRefinesSource :
    (0x0FFF#16).toNat / 4096 = 0x0 ∧ (0x5120#16).toNat / 4096 = 0x5 ∧ (0x9121#16).toNat / 4096 = 0x9 ∧
    (0x1000#16).toNat / 4096 ∉ [0x0, 0x5, 0x9] ∧ decode .strict 0x00E0#16 = .ok (.cls 0) ∧
    ∃ s : State, s.fault = none ∧ s.pc.toNat + 1 ≤ 0xFFF ∧ s.params.decodeMode = .strict ∧
      s.params.sysPolicy = .fault ∧ ∀ i, Decodes s i → ∃ nnn, i = .sys nnn := by
  refine ⟨by decide, by decide, by decide, by decide, by decide,
    under ({ · with decodeMode := .strict }) (given 0x01E0 []), by decide, by decide, by decide, by decide, ?_⟩
  intro i h
  have hd := h.2
  rw [show decode _ _ = .ok (.sys 0x1E0) by decide] at hd
  injection hd with hd
  exact ⟨_, hd.symm⟩
/-- One state per clause: a fault, inside a frame, the last of a frame. -/
theorem witness_StepRunsDecodedInstruction :
    (∃ s t : State, s.fault = none ∧ Decodes s (.ret 0) ∧ exec (.ret 0) { s with pc := s.pc + 2#16 } = .next t ∧
      t.fault ≠ none) ∧
    (∃ s t : State, s.fault = none ∧ Decodes s (.ldImm 0xA 2) ∧
      exec (.ldImm 0xA 2) { s with pc := s.pc + 2#16 } = .next t ∧ t.fault = none ∧ t.frameSteps + 1 < t.params.ipf) ∧
    (∃ s t : State, s.fault = none ∧ Decodes s (.ldImm 0xA 2) ∧
      exec (.ldImm 0xA 2) { s with pc := s.pc + 2#16 } = .next t ∧ t.fault = none ∧ t.params.ipf ≤ t.frameSteps + 1) :=
  ⟨⟨given 0x00EE [], _, by decide, ⟨by decide, by decide⟩, rfl, by decide⟩,
   ⟨{ given 0x6A02 [] with frameSteps := 2 }, _, by decide, ⟨by decide, by decide⟩, rfl, by decide, by decide⟩,
   ⟨{ given 0x6A02 [] with frameSteps := 3 }, _, by decide, ⟨by decide, by decide⟩, rfl, by decide, by decide⟩⟩
/-- A faulted core, the first address that cannot be fetched from, and the last that can, with a legal and an illegal word. -/
theorem witness_ExecuteOneFetchesDecodesDispatches :
    (∃ (s : State) (r : FaultRecord), s.fault = some r) ∧
    (∃ s : State, s.fault = none ∧ 0xFFF < s.pc.toNat + 1) ∧
    (∃ (s : State) (w : Word) (i : Instr), s.fault = none ∧ s.pc.toNat + 1 ≤ 0xFFF ∧
      w.toNat = (s.readByte s.pc.toNat).toNat * 256 + (s.readByte (s.pc.toNat + 1)).toNat ∧
      decode s.params.decodeMode w = .ok i) ∧
    (∃ (s : State) (w : Word) (e : DecodeReject), s.fault = none ∧ s.pc.toNat + 1 ≤ 0xFFF ∧
      w.toNat = (s.readByte s.pc.toNat).toNat * 256 + (s.readByte (s.pc.toNat + 1)).toNat ∧
      decode s.params.decodeMode w = .error e) :=
  ⟨⟨next (given 0x00EE []), ⟨.stackUnderflow, 0x200, some 0x00EE, none⟩, by decide⟩,
   ⟨{ base with pc := 0xFFF }, by decide, by decide⟩,
   ⟨{ base with pc := 0xFFE }.withFetchWord 16 0x6A01, 0x6A01, .ldImm 0xA 1, by decide, by decide, by decide, by decide⟩,
   ⟨{ base with pc := 0xFFE }.withFetchWord 16 0x8128, 0x8128, .unimplemented 0x8128, by decide, by decide, by decide, by decide⟩⟩
theorem witness_RunningCoreAlwaysSteps : base.fault = none ∧
    (next (given 0x00EE [])).fault = some ⟨.stackUnderflow, 0x200, some 0x00EE, none⟩ := by decide
/-- A step that faults, and a frame that faults after a completed instruction (V-FRM-1). -/
theorem witness_FaultingInstructionChangesNothingElse :
    (∃ (s t : State) (r : FaultRecord), s.fault = none ∧ step s = .next t ∧ t.fault = some r) ∧
    (∃ (s t : State) (r : FaultRecord), s.fault = none ∧ frame s = (t, some r)) :=
  ⟨⟨given 0x00EE [], _, _, rfl, rfl, rfl⟩, ⟨base.writeBytes 0x200 [0x60, 1, 0, 0xEE], _, _, rfl, rfl⟩⟩
/-- Each cause of each fault kind, at its boundary: the kind recorded. -/
theorem witness_FaultKindsHaveExactlyTheirCauses :
    (∀ s ∈ [{ given 0x2300 [] with stack := List.replicate 48 0x202 }, given 0x00EE [], given 0x8128 [], given 0x0123 [],
        { base with pc := 0xFFF }, { given 0xD012 [] with i := 0xFFF }, { given 0xFB33 [] with i := 0xFFE },
        { given 0xF155 [] with i := 0xFFF }, { given 0xF165 [] with i := 0xFFF }, { given 0xFB33 [] with i := 0x04F },
        { given 0xF055 [] with i := 0x04F }], s.fault = none ∧ s.sp ≤ s.params.stackDepth ∧ (next s).fault.isSome = true) ∧
    executeOne (given 0x00EE []) = .next (next (given 0x00EE [])) := by
  constructor
  · decide
  · rfl
/-- The states one step before each of those causes complete. -/
theorem witness_no_fault_at_the_last_good_operand :
    ∀ s ∈ [{ given 0x2300 [] with stack := List.replicate 47 0x202 }, { given 0xD012 [] with i := 0xFFE },
        { given 0xFB33 [] with i := 0xFFD }, { given 0xF155 [] with i := 0xFFE }, { given 0xF165 [] with i := 0xFFE },
        { given 0xFB33 [] with i := 0x050 }, { given 0xF055 [] with i := 0x050 }, { given 0xD010 [] with i := 0xFFFF }],
      (next s).fault = none := by decide
/-- A record of each kind (V-CALL-3, V-RET-2, V-DSP-6, V-DSP-4, V-DRW-7, V-STM-5). -/
theorem witness_FaultRecordNamesInstruction :
    (next { given 0x2300 [] with stack := List.replicate 48 0x202 }).fault = some ⟨.stackOverflow, 0x200, some 0x2300, none⟩ ∧
    (next (given 0x00EE [])).fault = some ⟨.stackUnderflow, 0x200, some 0x00EE, none⟩ ∧
    (next (given 0x8128 [])).fault = some ⟨.unimplementedInstruction, 0x200, some 0x8128, none⟩ ∧
    (next { base with pc := 0x1000 }).fault = some ⟨.addressOutOfRange, 0x1000, none, some 0x1000⟩ ∧
    (next { given 0xD013 [] with i := 0xFFE }).fault = some ⟨.addressOutOfRange, 0x200, some 0xD013, some 0x1000⟩ ∧
    (next { given 0xF155 [] with i := 0x04F }).fault = some ⟨.readOnlyWrite, 0x200, some 0xF155, some 0x04F⟩ := by decide
theorem witness_FaultedCoreRunsNothing : (next (given 0x0000 [])).fault =
    some ⟨.unimplementedInstruction, 0x200, some 0x0000, none⟩ := by decide
/-- A frame without a fault, and one whose second instruction faults (V-FRM-1). -/
theorem witness_StepsOfAFrameAreTheFrame :
    (∃ s t : State, s.frameSteps = 0 ∧ 1 ≤ s.params.ipf ∧ frame s = (t, none)) ∧
    (∃ (s t : State) (r : FaultRecord), s.frameSteps = 0 ∧ 1 ≤ s.params.ipf ∧ s.fault = none ∧ frame s = (t, some r)) :=
  ⟨⟨given 0x1200 [], _, rfl, by decide, rfl⟩,
   ⟨base.writeBytes 0x200 [0x60, 1, 0, 0xEE], _, _, rfl, by decide, rfl, rfl⟩⟩
/-- A timer at 0, 1 and 255 under each value of TIMER_UNDERFLOW (V-TICK-2, V-TICK-3). -/
theorem witness_TimerTickCountsDown :
    ({ base with st := 1 }.timerTick.dt, { base with st := 1 }.timerTick.st) = (0, 0) ∧
    ((under ({ · with timerUnderflow := .reload60 }) { base with st := 0xFF }).timerTick.dt,
      (under ({ · with timerUnderflow := .reload60 }) { base with st := 0xFF }).timerTick.st) = (0x3C, 0xFE) := by decide
/-- The last font address and the first above it. -/
theorem witness_ResetStateIsConstruction : (0x04F < 80 ∧ State.reset.readByte 0x04F = 0x80) ∧
    (80 ≤ 0x050 ∧ State.reset.readByte 0x050 = 0) := by decide
/-- A load at each end of START_ADDR's range. -/
theorem witness_ConstructionLoadsTheImage :
    (∃ s, construct { base.params with startAddr := 0x050 } [0x12] = some s) ∧
    (∃ s, construct { base.params with startAddr := 0xFFF } [0x12] = some s) := ⟨⟨_, rfl⟩, ⟨_, rfl⟩⟩
/-- A completed and a faulting step from a state with the invariant. -/
theorem witness_StepKeepsInvariant : ∃ s t s' t' : State,
    (s.inv = true ∧ step s = .next t) ∧ (s'.inv = true ∧ step s' = .next t' ∧ t'.fault ≠ none) :=
  ⟨given 0x1200 [], _, given 0x8128 [], _, ⟨by decide, rfl⟩, by decide, rfl, by decide⟩
theorem witness_InvariantHoldsAtConstruction : ∃ (p : Params) (image : List Byte) (s : State),
    p.legal = true ∧ construct p image = some s := ⟨base.params, [0x12], _, by decide, rfl⟩
/-- A store just above the font, and one into it. -/
theorem witness_FontIsNeverMutated : ∃ s t s' t' : State,
    (s.params.fontWrite = .fault ∧ step s = .next t ∧ t.fault = none) ∧
    (s'.params.fontWrite = .fault ∧ step s' = .next t' ∧ t'.fault ≠ none) :=
  ⟨{ given 0xFB33 [] with i := 0x050 }, _, { given 0xFB33 [] with i := 0x04F }, _,
    ⟨rfl, rfl, by decide⟩, rfl, rfl, by decide⟩
/-- A waiting core that goes on waiting, and one that gets its key. -/
theorem witness_WaitingCoreRetriesKeyRead : ∃ s t s' t' : State,
    (s.waiting = true ∧ WaitsAtKeyRead s ∧ step s = .next t ∧ t.waiting = true) ∧
    (s'.waiting = true ∧ WaitsAtKeyRead s' ∧ step s' = .next t' ∧ t'.waiting = false) :=
  ⟨{ given 0xF00A [] with waiting := true, keyAnswers := [none] }, _,
    { given 0xF00A [] with waiting := true, keyAnswers := [some 7] }, _,
    ⟨rfl, fun _ => ⟨0, by decide, by decide⟩, rfl, by decide⟩, rfl, fun _ => ⟨0, by decide, by decide⟩, rfl, by decide⟩
/-- For each unit a writer that changes it. -/
theorem witness_UnitsHaveOnlyTheirWriters :
    (next (given 0xD005 [])).fb ≠ (given 0xD005 []).fb ∧ (next (given 0x2300 [])).stack ≠ (given 0x2300 []).stack ∧
    (next { given 0xF055 [(0, 7)] with i := 0x300 }).readByte 0x300 ≠ (given 0xF055 []).readByte 0x300 ∧
    (next { given 0xE09E [] with keyAnswers := [some 3] }).keyCode ≠ (given 0xE09E []).keyCode ∧
    (next (given 0xF015 [(0, 7)])).dt ≠ (given 0xF015 []).dt ∧ (next (given 0xF018 [(0, 7)])).st ≠ (given 0xF018 []).st ∧
    (next (given 0xA300 [])).i ≠ (given 0xA300 []).i ∧
    (next { given 0xE0A1 [] with keyAnswers := [none] }).keyAnswers ≠ [none] ∧
    (next { given 0xC0FF [] with randomAnswers := [7] }).randomAnswers ≠ [7] ∧
    (next (given 0xC0FF [])).draws ≠ (given 0xC0FF []).draws := by decide
/-- VF as a flag, a destination, and a register of a block load. -/
theorem witness_RegistersHaveOnlyTheirWriters :
    (next (given 0x8124 [(1, 0xFF), (2, 1)])).reg vf ≠ (given 0x8124 []).reg vf ∧
    (next (given 0x6A02 [])).reg 0xA ≠ (given 0x6A02 []).reg 0xA ∧
    (next (given 0xF465 [])).reg 4 ≠ (given 0xF465 []).reg 4 := by decide
theorem witness_SoundTimerIsReadByNoInstruction : ∃ s t : State, exec (.ldStVx 4) s = .next t ∧ s.st ≠ t.st :=
  ⟨given 0xF418 [(4, 2)], _, rfl, by decide⟩
theorem witness_WaitingIsReadByNoInstruction : ∃ s t s' t' : State,
    (executeOne s = .next t ∧ t.fault = none) ∧ (executeOne s' = .next t' ∧ t'.fault ≠ none) :=
  ⟨given 0x6A02 [], _, given 0x8128 [], _, ⟨rfl, by decide⟩, rfl, by decide⟩
theorem witness_WaitingFollowsTheCompletedInstruction : ∃ s t s' t' : State,
    (s.fault = none ∧ exec (.ldVxK 0) s = .next t ∧ t.fault = none ∧ t.waiting = true) ∧
    (s'.fault = none ∧ exec (.ldVxK 0) s' = .next t' ∧ t'.fault = none ∧ t'.waiting = false) :=
  ⟨{ base with keyAnswers := [none] }, _, { base with keyAnswers := [some 0] }, _,
    ⟨rfl, rfl, by decide, by decide⟩, rfl, rfl, by decide, by decide⟩
/-- A completed instruction, a fault, a key read that waits. -/
theorem witness_EachInstructionLeavesThePcStated : ∃ s t s' t' s'' t'' : State,
    (s.fault = none ∧ exec (.jp 0xABC) s = .next t ∧ t.fault = none) ∧
    (s'.fault = none ∧ exec (.ret 0) s' = .next t' ∧ t'.fault ≠ none) ∧
    (s''.fault = none ∧ exec (.ldVxK 0) s'' = .next t'' ∧ t''.fault = none ∧ t''.keyAsserted = false) :=
  ⟨base, _, base, _, { base with keyAnswers := [none] }, _, ⟨rfl, rfl, by decide⟩, ⟨rfl, rfl, by decide⟩,
    rfl, rfl, by decide, by decide⟩
/-- The cases of `ResultAndFlag`: another destination than VF, and VF under each VF_ORDER (ADD, SUB, SUBN, SHR, SHL alike). -/
theorem witness_ResultAndFlag : (1#4) ≠ vf ∧ (0xF#4) = vf ∧ base.params.vfOrder = .resultLast ∧
    (under ({ · with vfOrder := .flagLast }) base).params.vfOrder = .flagLast := by decide
theorem witness_ShiftsSetBitShiftedOut : base.params.shiftSource = .vx ∧
    (under ({ · with shiftSource := .vy }) base).params.shiftSource = .vy := by decide
theorem witness_SysFollowsItsPolicy : base.params.sysPolicy = .fault ∧
    (under ({ · with sysPolicy := .nop }) base).params.sysPolicy = .nop := by decide
/-- The stack one below capacity and at capacity. -/
theorem witness_CallPushesOrOverflows :
    { base with stack := List.replicate 47 0x202 }.sp < base.params.stackDepth ∧
    { base with stack := List.replicate 48 0x202 }.sp = base.params.stackDepth := by decide
theorem witness_RetPopsOrUnderflows : 0 < { base with stack := [0x202] }.sp ∧ base.sp = 0 := by decide
/-- V-CR-1. -/
theorem witness_CallThenReturnRestoresPcAndStack : ∃ s t u : State, s.fault = none ∧ Decodes s (.call 0x206) ∧
    s.sp < s.params.stackDepth ∧ executeOne s = .next t ∧ Decodes t (.ret 0) ∧ executeOne t = .next u :=
  ⟨base.writeBytes 0x200 [0x22, 0x06, 0, 0, 0, 0, 0, 0xEE], _, _, rfl, ⟨by decide, by decide⟩, by decide, rfl,
    ⟨by decide, by decide⟩, rfl⟩
/-- The last address a draw may read, no address at all, and the first that faults. -/
theorem witness_DrawTogglesCoveredPixels :
    { base with i := 0xFFE }.i.toNat + (2#4).toNat - 1 ≤ 0xFFF ∧ (0#4).toNat = 0 ∧
    1 ≤ (2#4).toNat ∧ 0xFFF < { base with i := 0xFFF }.i.toNat + (2#4).toNat - 1 := by decide
/-- Two draws of glyph 0 (V-DRW-1, V-DRW-2). -/
theorem witness_DrawingTwiceRestoresTheDisplay : ∃ s t u : State, (0#4) ≠ vf ∧ s.fault = none ∧
    exec (.drw 0 0 5) s = .next t ∧ t.fault = none ∧ exec (.drw 0 0 5) t = .next u ∧ u.reg vf = 1#8 :=
  ⟨base, _, _, by decide, rfl, rfl, by decide, rfl, by decide⟩
/-- A random byte given in advance, and none. -/
theorem witness_RandomIsAMaskedDraw : { base with randomAnswers := [0xAB, 1] }.randomAnswers = 0xAB :: [1] ∧
    base.randomAnswers = [] := by decide
/-- A key, no key, and no answer in advance. -/
theorem witness_KeyReadStoresKeyOrRetries : { base with keyAnswers := [some 0xF] }.nextKey = some 0xF ∧
    { base with keyAnswers := [none] }.nextKey = none ∧ { base with keyAnswers := [none] }.keyAnswers = none :: [] ∧
    base.keyAnswers = [] := by decide
theorem witness_KeySkipsCompareWholeRegister : { base with keyAnswers := [some 0] }.nextKey = some 0 ∧
    { base with keyAnswers := [none, some 1] }.nextKey = none ∧
    { base with keyAnswers := [none, some 1] }.keyAnswers = none :: [some 1] ∧ base.keyAnswers = [] := by decide
theorem witness_IndexWritesGiveTheirValue : base.params.fontDigit = .full ∧
    (under ({ · with fontDigit := .lowNibble }) base).params.fontDigit = .lowNibble := by decide
/-- The first and the last I at which FX33 completes, and the ones beside them at which it faults. -/
theorem witness_BcdStoreWritesThreeDigits : base.memWf = true ∧
    ({ base with i := 0xFFD }.i.toNat + 2 ≤ 0xFFF ∧ 0x050 ≤ { base with i := 0xFFD }.i.toNat) ∧
    ({ base with i := 0x050 }.i.toNat + 2 ≤ 0xFFF ∧ 0x050 ≤ { base with i := 0x050 }.i.toNat) ∧
    (under ({ · with fontWrite := .write }) base).params.fontWrite = .write ∧
    0xFFF < { base with i := 0xFFE }.i.toNat + 2 ∧
    (base.params.fontWrite = .fault ∧ { base with i := 0x04F }.i.toNat < 0x050) := by decide
/-- FX55 with x = 0xF, likewise. -/
theorem witness_BlockStoreWritesRegisters : base.memWf = true ∧
    ({ base with i := 0xFF0 }.i.toNat + (0xF#4).toNat ≤ 0xFFF ∧ 0x050 ≤ { base with i := 0xFF0 }.i.toNat) ∧
    base.params.ldstI = .unchanged ∧ (under ({ · with ldstI := .advance }) base).params.ldstI = .advance ∧
    0xFFF < { base with i := 0xFF1 }.i.toNat + (0xF#4).toNat ∧
    (base.params.fontWrite = .fault ∧ { base with i := 0x04F }.i.toNat < 0x050) := by decide
/-- FX65 with x = 0xF, likewise. -/
theorem witness_BlockLoadReadsRegisters :
    { base with i := 0xFF0 }.i.toNat + (0xF#4).toNat ≤ 0xFFF ∧ 0xFFF < { base with i := 0xFF1 }.i.toNat + (0xF#4).toNat ∧
    base.params.ldstI = .unchanged ∧ (under ({ · with ldstI := .advance }) base).params.ldstI = .advance := by decide
/-- V-STM-6. -/
theorem witness_StoreIsSeenByTheNextFetch : ∃ s t : State, s.memWf = true ∧ s.fault = none ∧ Decodes s (.ldMemVx 1) ∧
    1 ≤ (1#4).toNat ∧ s.i.toNat = s.pc.toNat + 2 ∧ executeOne s = .next t ∧ t.fault = none :=
  ⟨{ given 0xF155 [(0, 0x12), (1, 0x34)] with i := 0x202 }, _, by decide, rfl, ⟨by decide, by decide⟩, by decide, by decide,
    rfl, by decide⟩

end Sys2Proof.Tests
end

section
/-! PROOFS. The program counter after each instruction (10_state.md R27): the targets, skip conditions and stack entries PC is computed from, and the table assembled from them over the normal form of `exec`. -/

namespace Sys2Proof.Machine

/-! The addresses PC is loaded with (R72, R138). -/

@[simp] theorem toNat_addrOf (nnn : Addr12) : (addrOf nnn).toNat = nnn.toNat := by
  unfold addrOf
  exact BitVec.toNat_setWidth_of_le (by decide)

/-- The sum of R138 does not wrap: 0xFFF + 0xFF fits in 16 bits, so no mask is needed to state it. -/
theorem State.toNat_indexedTarget (s : State) (nnn : Addr12) :
    (s.indexedTarget nnn).toNat = nnn.toNat + (s.reg 0#4).toNat := by
  have hwidth : ((s.reg 0#4).setWidth 16).toNat = (s.reg 0#4).toNat :=
    BitVec.toNat_setWidth_of_le (by decide)
  have hsum : nnn.toNat + (s.reg 0#4).toNat < 2 ^ 16 := by omega
  unfold State.indexedTarget
  rw [BitVec.toNat_add, toNat_addrOf, hwidth, Nat.mod_eq_of_lt hsum]

/-! Skips (R139) and their conditions: equal bytes (R134–R137), and the asserted key against a register (R175, R176). -/

theorem State.pc_skipIf_of_iff (s : State) {c : Bool} {p : Prop} [Decidable p] (h : c = true ↔ p) :
    (s.skipIf c).pc = if p then s.pc + 2#16 else s.pc := by
  simp only [State.skipIf_pc, h]

theorem State.pc_skipIf_not_of_iff (s : State) {c : Bool} {p : Prop} [Decidable p] (h : c = true ↔ p) :
    (s.skipIf (!c)).pc = if p then s.pc else s.pc + 2#16 := by
  have hnot : (!c) = true ↔ ¬p := by rw [← h, Bool.not_eq_true', Bool.not_eq_true]
  rw [s.pc_skipIf_of_iff hnot, ite_not]

theorem beq_iff_toNat_eq (a b : Byte) : (a == b) = true ↔ a.toNat = b.toNat := by
  rw [beq_iff_eq, BitVec.toNat_inj]

theorem State.keyMatches_iff (s : State) (b : Byte) :
    s.keyMatches b = true ↔ s.keyAsserted = true ∧ s.keyCode.toNat = b.toNat := by
  have hwidth : (s.keyCode.setWidth 8).toNat = s.keyCode.toNat :=
    BitVec.toNat_setWidth_of_le (by decide)
  rw [State.keyMatches, Bool.and_eq_true, beq_iff_toNat_eq, hwidth]

/-! The entries a push and a pop speak of (R31, R32). -/

theorem State.stackEntry_sp_setStack_cons (s : State) (a : Word) :
    (s.setStack (a :: s.stack)).stackEntry s.sp = some a := by
  simp [State.stackEntry, State.sp]

theorem State.stackEntry_top {s : State} (h : s.stack ≠ []) :
    s.stackEntry (s.sp - 1) = some (s.stack.headD 0) := by
  unfold State.stackEntry State.sp
  obtain ⟨top, rest, hs⟩ := List.exists_cons_of_ne_nil h
  simp [hs]

theorem stack_ne_nil_of_ret_not_blocked {x : Nibble} {s : State} (h : blocked (.ret x) s = none) :
    s.stack ≠ [] := by
  intro hempty
  simp [blocked, hempty] at h

/-- Settles O27. A fault leaves PC at the instruction; an instruction that completes leaves the PC of its effect,
which only jumps, calls, returns, skips and LD Vx, K move away from the post-fetch value. -/
theorem eachInstructionLeavesThePcStated : Obligations.EachInstructionLeavesThePcStated := by
  unfold Obligations.EachInstructionLeavesThePcStated
  intro i s t hs h
  obtain ⟨kind, addr, -, rfl⟩ | ⟨hrun, rfl⟩ := exec_cases h
  · exact ⟨fun _ => faulted_pc s kind addr i, fun hnone => by simp at hnone⟩
  · refine ⟨fun hfault => by simp [hs] at hfault, ?_⟩
    rintro -
    cases i
    case jp nnn => exact toNat_addrOf nnn
    case jpV0 nnn => exact s.toNat_indexedTarget nnn
    case call nnn => exact ⟨toNat_addrOf nnn, s.stackEntry_sp_setStack_cons s.pc⟩
    case ret x => exact State.stackEntry_top (stack_ne_nil_of_ret_not_blocked hrun)
    case seImm x kk => exact s.pc_skipIf_of_iff (beq_iff_toNat_eq (s.reg x) kk)
    case sneImm x kk => exact s.pc_skipIf_not_of_iff (beq_iff_toNat_eq (s.reg x) kk)
    case seReg x y _ => exact s.pc_skipIf_of_iff (beq_iff_toNat_eq (s.reg x) (s.reg y))
    case sneReg x y _ => exact s.pc_skipIf_not_of_iff (beq_iff_toNat_eq (s.reg x) (s.reg y))
    case skp x => exact s.sampleKeys.pc_skipIf_of_iff (s.sampleKeys.keyMatches_iff (s.reg x))
    case sknp x => exact s.sampleKeys.pc_skipIf_not_of_iff (s.sampleKeys.keyMatches_iff (s.reg x))
    case ldVxK x => exact s.sampleKeys.takeKeyOrRewind_pc x
    -- The last row of R27: the effect of every other instruction leaves PC alone.
    all_goals simp [effect]

end Sys2Proof.Machine
end

section
/-! PROOFS. What the decoder does by the groups of 30_encoding.md R74 and R75: which words it rejects (R77), and where `strict` differs from `source`. -/

namespace Sys2Proof

/-! The top nibble and the decode map. -/

theorem fieldOp_eq_iff (w : Word) (op : Nibble) : fieldOp w = op ↔ w.toNat / 4096 = op.toNat := by
  rw [← BitVec.toNat_inj, toNat_fieldOp]
  omega

theorem decode_ne_ok_iff {m : DecodeMode} {w : Word} :
    (∀ i, decode m w ≠ .ok i) ↔ decodeClass m w = none := by
  simp only [ne_eq, decode_eq_ok, Option.eq_none_iff_forall_ne_some]

theorem decode_congr {m m' : DecodeMode} {w : Word} (h : decodeClass m w = decodeClass m' w) :
    decode m w = decode m' w := by
  unfold decode
  rw [h]

/-! The words each group rejects (R77). -/

theorem decode8_eq_none_iff (w : Word) :
    decode8 w = none ↔ w.toNat % 16 ∈ [0x8, 0x9, 0xA, 0xB, 0xC, 0xD, 0xF] := by
  rw [← toNat_fieldN]
  unfold decode8
  split
  case h_10 =>
    simp_all [← BitVec.toNat_inj]
    omega
  all_goals rename_i hn; simp [hn]

theorem decodeE_eq_none_iff (w : Word) : decodeE w = none ↔ w.toNat % 256 ∉ [0x9E, 0xA1] := by
  rw [← toNat_fieldKk]
  unfold decodeE
  split
  case h_3 => simp_all [← BitVec.toNat_inj]
  all_goals rename_i hk; simp [hk]

theorem decodeF_eq_none_iff (w : Word) :
    decodeF w = none ↔
      w.toNat % 256 ∉ [0x07, 0x0A, 0x15, 0x18, 0x1E, 0x29, 0x33, 0x55, 0x65] := by
  rw [← toNat_fieldKk]
  unfold decodeF
  split
  case h_10 => simp_all [← BitVec.toNat_inj]
  all_goals rename_i hk; simp [hk]

/-- Under `source` only the 0x8, 0xE and 0xF groups reject a word. -/
theorem decodeClass_source_eq_none_iff (w : Word) :
    decodeClass .source w = none ↔
      (fieldOp w = 0x8#4 ∧ decode8 w = none) ∨ (fieldOp w = 0xE#4 ∧ decodeE w = none) ∨
        (fieldOp w = 0xF#4 ∧ decodeF w = none) := by
  unfold decodeClass
  split
  case h_16 =>
    have hop : fieldOp w = 0xF#4 := by
      simp_all only [← BitVec.toNat_inj, imp_false, BitVec.reduceToNat]
      omega
    simp [hop]
  all_goals rename_i hop; simp [hop, lowNibbleAccepted]

/-! The groups in which `strict` differs from `source` (R75). -/

theorem decodeClass_group0 {w : Word} (m : DecodeMode) (hop : fieldOp w = 0x0#4) :
    decodeClass m w = some (decode0 m w) := by
  simp [decodeClass, hop]

/-- In the 0x0 group the low byte and w[11:8] are the whole word. -/
theorem group0_word_iff {w : Word} (hop : fieldOp w = 0x0#4) (kk : Byte) :
    (fieldKk w = kk ∧ highNibbleAccepted .strict w) ↔ w = kk.setWidth 16 := by
  have htop : w.toNat / 4096 = 0 := (fieldOp_eq_iff w 0x0#4).1 hop
  simp [highNibbleAccepted, ← BitVec.toNat_inj, toNat_fieldKk, toNat_fieldX]
  omega

theorem decode0_strict {w : Word} (hop : fieldOp w = 0x0#4) :
    decode0 .strict w = if w = 0x00E0#16 then .cls 0 else if w = 0x00EE#16 then .ret 0
      else .sys (BitVec.ofNat 12 (w.toNat % 4096)) := by
  have hnnn : fieldNnn w = BitVec.ofNat 12 (w.toNat % 4096) := by
    rw [← toNat_fieldNnn, BitVec.ofNat_toNat, BitVec.setWidth_eq]
  unfold decode0
  simp only [group0_word_iff hop, BitVec.reduceSetWidth, hnnn]
  split_ifs with hcls hret
  · rw [hcls]; rfl
  · rw [hret]; rfl
  · rfl

/-- A 0x0 word that `strict` does not read as SYS it reads as `source` does. -/
theorem decode0_strict_eq_sys_or_source (w : Word) :
    decode0 .strict w = .sys (fieldNnn w) ∨ decode0 .strict w = decode0 .source w := by
  cases hx : highNibbleAccepted .strict w with
  | false => left; simp [decode0, hx]
  | true =>
    right
    have hsource : highNibbleAccepted .source w = true := rfl
    simp [decode0, hx, hsource]

theorem decodeClass_strict_of_lowNibble {w : Word} (hop : fieldOp w = 0x5#4 ∨ fieldOp w = 0x9#4) :
    decodeClass .strict w = if w.toNat % 16 = 0 then decodeClass .source w else none := by
  have hn : fieldN w = 0#4 ↔ w.toNat % 16 = 0 := by
    rw [← BitVec.toNat_inj, toNat_fieldN, BitVec.toNat_ofNat, Nat.zero_mod]
  obtain hop | hop := hop <;> simp [decodeClass, hop, lowNibbleAccepted, hn]

theorem decode_strict_of_lowNibble {w : Word} (hop : fieldOp w = 0x5#4 ∨ fieldOp w = 0x9#4) :
    decode .strict w =
      if w.toNat % 16 = 0 then decode .source w else .error (.unimplemented w) := by
  have hclass := decodeClass_strict_of_lowNibble hop
  split_ifs at hclass ⊢
  · exact decode_congr hclass
  · exact decode_eq_error.2 ⟨hclass, rfl⟩

theorem decode_strict_of_other_group {w : Word} (h0 : fieldOp w ≠ 0x0#4) (h5 : fieldOp w ≠ 0x5#4)
    (h9 : fieldOp w ≠ 0x9#4) : decode .strict w = decode .source w := by
  apply decode_congr
  unfold decodeClass
  split
  case h_1 hop => exact absurd hop h0
  case h_6 hop => exact absurd hop h5
  case h_10 hop => exact absurd hop h9
  all_goals rfl

/-- What `strict` makes of a word: what `source` does, SYS, or a rejection. -/
theorem decode_strict_cases (w : Word) :
    decode .strict w = decode .source w ∨ decode .strict w = .ok (.sys (fieldNnn w)) ∨
      decode .strict w = .error (.unimplemented w) := by
  by_cases h0 : fieldOp w = 0x0#4
  · obtain hsys | hsame := decode0_strict_eq_sys_or_source w
    · exact .inr (.inl (decode_eq_ok.2 (by rw [decodeClass_group0 .strict h0, hsys])))
    · exact .inl (decode_congr (by simp only [decodeClass_group0 _ h0, hsame]))
  by_cases hlow : fieldOp w = 0x5#4 ∨ fieldOp w = 0x9#4
  · rw [decode_strict_of_lowNibble hlow]
    split_ifs
    · exact .inl rfl
    · exact .inr (.inr rfl)
  · rw [not_or] at hlow
    exact .inl (decode_strict_of_other_group h0 hlow.1 hlow.2)

/-- An instruction other than SYS that `strict` decodes is the reading of its word under `source`. -/
theorem decode_strict_refines {w : Word} {i : Instr} (h : decode .strict w = .ok i) :
    (∃ nnn, i = .sys nnn) ∨ decode .source w = .ok i := by
  obtain hsame | hsys | herr := decode_strict_cases w
  · exact .inr (hsame ▸ h)
  · rw [hsys, Except.ok.injEq] at h
    exact .inl ⟨_, h.symm⟩
  · rw [herr] at h
    cases h

end Sys2Proof

namespace Sys2Proof.Machine

/-- Under SYS_POLICY = fault a fetched word that decodes to nothing but SYS raises UnimplementedInstruction,
whether it is rejected (R92) or run (R130). -/
theorem executeOne_unimplemented {s : State} (hf : s.fault = none) (hpc : s.pc.toNat + 1 ≤ 0xFFF)
    (hpol : s.params.sysPolicy = .fault) (hsys : ∀ i, Decodes s i → ∃ nnn, i = .sys nnn) :
    ∃ t r, executeOne s = .next t ∧ t.fault = some r ∧ r.kind = .unimplementedInstruction := by
  have hw := State.fetch_eq_some.2 ⟨hpc, rfl⟩
  cases hd : decodeClass s.params.decodeMode _ with
  | none => exact ⟨_, _, executeOne_of_illegal hf hw hd, rfl, rfl⟩
  | some i =>
    have hi : Decodes s i := decodes_iff.2 ⟨_, hw, decode_eq_ok.2 hd⟩
    obtain ⟨nnn, rfl⟩ := hsys i hi
    have hblocked : blocked (.sys nnn) s.advance = some (.unimplementedInstruction, none) := by
      simp [blocked, hpol]
    exact ⟨_, _, (executeOne_of_decodes hf hi).trans (exec_of_blocked hblocked), rfl, rfl⟩

/-- Settles O4. The three groups that reject a word, each by its sub-functions; and the arm `Unimplemented` of `execute_one`. -/
theorem illegalWordsAreExactlyTheListed : Obligations.IllegalWordsAreExactlyTheListed := by
  unfold Obligations.IllegalWordsAreExactlyTheListed
  constructor
  · intro w
    rw [decode_ne_ok_iff, decodeClass_source_eq_none_iff, decode8_eq_none_iff, decodeE_eq_none_iff,
      decodeF_eq_none_iff]
    simp only [fieldOp_eq_iff, BitVec.reduceToNat]
  · intro s hf hpc hd
    exact executeOne_of_illegal hf (State.fetch_eq_some.2 ⟨hpc, rfl⟩) (decode_ne_ok_iff.1 hd)

/-- Settles O5. Group by group for the decode map; the execution of what is left faults as a rejected word or as SYS. -/
theorem strictDecodingRefinesSource : Obligations.StrictDecodingRefinesSource := by
  unfold Obligations.StrictDecodingRefinesSource
  refine ⟨fun w h => ?_, fun w h => ?_, fun w h => ?_, fun w h => ?_,
    fun w i => decode_strict_refines, fun s hf hpc _ hpol hsys => executeOne_unimplemented hf hpc hpol hsys⟩
  · have hop : fieldOp w = 0x0#4 := (fieldOp_eq_iff w 0x0#4).2 h
    exact decode_eq_ok.2 (by rw [decodeClass_group0 .strict hop, decode0_strict hop])
  · exact decode_strict_of_lowNibble (.inl ((fieldOp_eq_iff w 0x5#4).2 h))
  · exact decode_strict_of_lowNibble (.inr ((fieldOp_eq_iff w 0x9#4).2 h))
  · simp only [List.mem_cons, List.not_mem_nil, or_false, not_or] at h
    obtain ⟨h0, h5, h9⟩ := h
    exact decode_strict_of_other_group (mt (fieldOp_eq_iff w 0x0#4).1 h0)
      (mt (fieldOp_eq_iff w 0x5#4).1 h5) (mt (fieldOp_eq_iff w 0x9#4).1 h9)

end Sys2Proof.Machine
end

section
/-! PROOFS. When an instruction leaves `waiting` at 1 (40_dispatch.md R94), and what the host's `frame` does (R95): a batch that completes and the tick after it, a batch a fault aborts, a core that had faulted already. -/

namespace Sys2Proof.Machine

/-! `waiting` after an instruction (R94). -/

/-- Only LD Vx, K waits, and then on the latch its own sample has filled. -/
theorem waits_iff (i : Instr) (s : State) :
    waits i s = true ↔ (∃ x, i = .ldVxK x) ∧ (effect i s).keyAsserted = false := by
  cases i
  case ldVxK x => simp [waits, effect]
  all_goals simp [waits]

/-- Settles O26. A fault is no completion; an instruction that completes writes `waits` to `waiting`. -/
theorem waitingFollowsTheCompletedInstruction : Obligations.WaitingFollowsTheCompletedInstruction := by
  unfold Obligations.WaitingFollowsTheCompletedInstruction
  intro i s t _ h hnone
  obtain ⟨kind, addr, -, rfl⟩ | ⟨-, rfl⟩ := exec_cases h
  · simp at hnone
  · exact waits_iff i s

/-! Instructions that complete one after the other. -/

theorem CompletesSteps.source_fault {k : Nat} {s t : State} (h : CompletesSteps k s t) : s.fault = none := by
  cases k with
  | zero => exact h.1
  | succ k => exact h.1

theorem CompletesSteps.target_fault {k : Nat} {s t : State} (h : CompletesSteps k s t) : t.fault = none := by
  induction k generalizing s with
  | zero =>
    obtain ⟨hs, rfl⟩ := h
    exact hs
  | succ k ih =>
    obtain ⟨-, u, -, hrest⟩ := h
    exact ih hrest

/-! The batch of a frame. -/

theorem runBatch_succ_of_fault {s t : State} {r : FaultRecord} (k : Nat) (h : executeOne s = .next t)
    (ht : t.fault = some r) : runBatch (k + 1) s = t := by
  simp [runBatch, h, ht]

theorem runBatch_succ_of_running {s t : State} (k : Nat) (h : executeOne s = .next t)
    (ht : t.fault = none) : runBatch (k + 1) s = runBatch k t := by
  simp [runBatch, h, ht]

/-- A batch goes on from the state its first `j` instructions reach. -/
theorem runBatch_add_of_completes {j : Nat} {s u : State} (m : Nat) (h : CompletesSteps j s u) :
    runBatch (j + m) s = runBatch m u := by
  induction j generalizing s with
  | zero =>
    obtain ⟨-, rfl⟩ := h
    rw [Nat.zero_add]
  | succ j ih =>
    obtain ⟨-, v, hv, hrest⟩ := h
    rw [Nat.succ_add, runBatch_succ_of_running (j + m) hv hrest.source_fault, ih hrest]

theorem runBatch_of_completes {k : Nat} {s u : State} (h : CompletesSteps k s u) : runBatch k s = u :=
  runBatch_add_of_completes 0 h

/-- A batch of more than `j` instructions ends where the one after the first `j` faults. -/
theorem runBatch_of_aborts {j k : Nat} {s u t : State} {r : FaultRecord} (hjk : j < k)
    (h : CompletesSteps j s u) (hu : executeOne u = .next t) (ht : t.fault = some r) : runBatch k s = t := by
  obtain ⟨m, rfl⟩ := Nat.exists_eq_add_of_lt hjk
  rw [Nat.add_assoc, runBatch_add_of_completes (m + 1) h, runBatch_succ_of_fault m hu ht]

/-- What a batch from a running core does: all of it completes, or an instruction of it faults. -/
theorem completes_or_aborts (k : Nat) {s : State} (hs : s.fault = none) :
    (∃ u, CompletesSteps k s u) ∨
      ∃ j u t r, j < k ∧ CompletesSteps j s u ∧ executeOne u = .next t ∧ t.fault = some r := by
  induction k generalizing s with
  | zero => exact .inl ⟨s, hs, rfl⟩
  | succ k ih =>
    obtain ⟨v, hv⟩ := executeOne_next hs
    cases hvf : v.fault with
    | some r => exact .inr ⟨0, s, v, r, Nat.succ_pos k, ⟨hs, rfl⟩, hv, hvf⟩
    | none =>
      obtain ⟨u, hu⟩ | ⟨j, u, t, r, hjk, hu, ht, hr⟩ := ih hvf
      · exact .inl ⟨u, hs, v, hv, hu⟩
      · exact .inr ⟨j + 1, u, t, r, Nat.succ_lt_succ hjk, ⟨hs, v, hv, hu⟩, ht, hr⟩

/-! The frame (R95), by the three ways it can end. -/

theorem frame_of_fault {s : State} {r : FaultRecord} (h : s.fault = some r) : frame s = (s, some r) := by
  simp [frame, h]

theorem frame_of_completes {s u : State} (h : CompletesSteps s.params.ipf s u) :
    frame s = (u.timerTick, none) := by
  simp [frame, h.source_fault, runBatch_of_completes h, h.target_fault]

theorem frame_of_aborts {j : Nat} {s u t : State} {r : FaultRecord} (hj : j < s.params.ipf)
    (h : CompletesSteps j s u) (hu : executeOne u = .next t) (ht : t.fault = some r) :
    frame s = (t, some r) := by
  simp [frame, h.source_fault, runBatch_of_aborts hj h hu ht, ht]

/-- What `frame` can do: nothing in a faulted core, the whole batch and the tick, or a batch that a fault aborts. -/
theorem frame_cases {s t : State} {o : Option FaultRecord} (h : frame s = (t, o)) :
    (∃ r, o = some r ∧ s.fault = some r ∧ t = s) ∨
      (o = none ∧ ∃ u, CompletesSteps s.params.ipf s u ∧ t = u.timerTick) ∨
      ∃ r, o = some r ∧
        ∃ k u, k < s.params.ipf ∧ CompletesSteps k s u ∧ executeOne u = .next t ∧ t.fault = some r := by
  cases hs : s.fault with
  | some r =>
    obtain ⟨rfl, rfl⟩ := Prod.mk.inj ((frame_of_fault hs).symm.trans h)
    exact .inl ⟨r, rfl, rfl, rfl⟩
  | none =>
    obtain ⟨u, hu⟩ | ⟨k, u, t', r, hk, hu, ht, hr⟩ := completes_or_aborts s.params.ipf hs
    · obtain ⟨rfl, rfl⟩ := Prod.mk.inj ((frame_of_completes hu).symm.trans h)
      exact .inr (.inl ⟨rfl, u, hu, rfl⟩)
    · obtain ⟨rfl, rfl⟩ := Prod.mk.inj ((frame_of_aborts hk hu ht hr).symm.trans h)
      exact .inr (.inr ⟨r, rfl, k, u, hk, hu, ht, hr⟩)

/-- Settles O13. The case lemma of `frame` gives each direction from left to right, the frame's equation in the case gives it back. -/
theorem frameRunsBatchThenTicks : Obligations.FrameRunsBatchThenTicks := by
  unfold Obligations.FrameRunsBatchThenTicks
  refine fun s t => ⟨⟨fun h => ?_, ?_⟩, fun r => ⟨fun h => ?_, ?_⟩⟩
  · obtain ⟨r, ho, -⟩ | ⟨-, hrun⟩ | ⟨r, ho, -⟩ := frame_cases h
    · cases ho
    · exact hrun
    · cases ho
  · rintro ⟨u, hu, rfl⟩
    exact frame_of_completes hu
  · obtain ⟨r', ho, hfaulted⟩ | ⟨ho, -⟩ | ⟨r', ho, habort⟩ := frame_cases h
    · cases ho
      exact .inl hfaulted
    · cases ho
    · cases ho
      exact .inr habort
  · rintro (⟨hs, rfl⟩ | ⟨k, u, hk, hu, ht, hr⟩)
    · exact frame_of_fault hs
    · exact frame_of_aborts hk hu ht hr

end Sys2Proof.Machine
end

section
/-! PROOFS. Decoding and encoding are inverse (30_encoding.md R71, R73–R75): a word decodes to an instruction exactly when the instruction is well-formed and the word is its encoding. From this which words encode an instruction under a decode mode (`EncodedAs`). -/

namespace Sys2Proof

/-- SYS is well-formed exactly on the words of the 0x0 group that are read neither as CLS nor as RET (R74, R75). -/
theorem wellFormed_sys_iff {w : Word} (m : DecodeMode) (hop : fieldOp w = 0x0#4) :
    WellFormed m (.sys (fieldNnn w)) = true ↔
      ¬(fieldKk w = 0xE0#8 ∧ highNibbleAccepted m w = true) ∧
        ¬(fieldKk w = 0xEE#8 ∧ highNibbleAccepted m w = true) := by
  cases m with
  | source =>
    have hkk : fieldKk w = (fieldNnn w).extractLsb' 0 8 := by
      rw [← fieldKk_formatA (fieldOp w), formatA_fields]
    simp [WellFormed, highNibbleAccepted, hkk]
  | strict =>
    have htop : w.toNat / 4096 = 0 := (fieldOp_eq_iff w 0x0#4).1 hop
    simp only [group0_word_iff hop]
    simp [WellFormed, ← BitVec.toNat_inj, toNat_fieldNnn]
    omega

/-! From a well-formed instruction to its word and back. -/

theorem decode0_formatA {m : DecodeMode} {nnn : Addr12} (h : WellFormed m (.sys nnn) = true) :
    decode0 m (formatA 0x0#4 nnn) = .sys nnn := by
  have hsys := wellFormed_sys_iff (w := formatA 0x0#4 nnn) m (fieldOp_formatA 0x0#4 nnn)
  rw [fieldNnn_formatA] at hsys
  obtain ⟨hcls, hret⟩ := hsys.1 h
  rw [decode0, if_neg hcls, if_neg hret, fieldNnn_formatA]

theorem decodeClass_encode {m : DecodeMode} {i : Instr} (h : WellFormed m i = true) :
    decodeClass m (encode i) = some i := by
  cases i
  case sys nnn => simp [encode, decodeClass, decode0_formatA h]
  -- The classes with a nibble that `source` leaves unexamined and `strict` requires to be 0 (R75).
  case cls x | ret x => cases m <;> simp_all [encode, decodeClass, decode0, highNibbleAccepted, WellFormed]
  case seReg x y n | sneReg x y n => cases m <;> simp_all [encode, decodeClass, lowNibbleAccepted, WellFormed]
  all_goals simp [encode, decodeClass, decode8, decodeE, decodeF]

/-! From a word that decodes to its instruction and back, by the groups of R74. -/

theorem formatA_of_fieldOp {w : Word} {op : Nibble} (hop : fieldOp w = op) :
    formatA op (fieldNnn w) = w := by
  rw [← hop, formatA_fields]

theorem formatXK_of_fields {w : Word} {op : Nibble} {kk : Byte} (hop : fieldOp w = op) (hkk : fieldKk w = kk) :
    formatXK op (fieldX w) kk = w := by
  rw [← hop, ← hkk, formatXK_fields]

theorem formatXY_of_fields {w : Word} {op n : Nibble} (hop : fieldOp w = op) (hn : fieldN w = n) :
    formatXY op (fieldX w) (fieldY w) n = w := by
  rw [← hop, ← hn, formatXY_fields]

theorem encode_decode0 {w : Word} (m : DecodeMode) (hop : fieldOp w = 0x0#4) :
    encode (decode0 m w) = w ∧ WellFormed m (decode0 m w) = true := by
  unfold decode0
  split_ifs with hcls hret
  · refine ⟨formatXK_of_fields hop hcls.1, ?_⟩
    cases m <;> simp_all [highNibbleAccepted, WellFormed]
  · refine ⟨formatXK_of_fields hop hret.1, ?_⟩
    cases m <;> simp_all [highNibbleAccepted, WellFormed]
  · exact ⟨formatA_of_fieldOp hop, (wellFormed_sys_iff m hop).2 ⟨hcls, hret⟩⟩

theorem encode_of_decode8 {m : DecodeMode} {w : Word} {i : Instr} (hop : fieldOp w = 0x8#4)
    (h : decode8 w = some i) : encode i = w ∧ WellFormed m i = true := by
  unfold decode8 at h
  split at h
  case h_10 => cases h
  all_goals
    rename_i hn
    cases h
    exact ⟨formatXY_of_fields hop hn, by cases m <;> rfl⟩

theorem encode_of_decodeE {m : DecodeMode} {w : Word} {i : Instr} (hop : fieldOp w = 0xE#4)
    (h : decodeE w = some i) : encode i = w ∧ WellFormed m i = true := by
  unfold decodeE at h
  split at h
  case h_3 => cases h
  all_goals
    rename_i hkk
    cases h
    exact ⟨formatXK_of_fields hop hkk, by cases m <;> rfl⟩

theorem encode_of_decodeF {m : DecodeMode} {w : Word} {i : Instr} (hop : fieldOp w = 0xF#4)
    (h : decodeF w = some i) : encode i = w ∧ WellFormed m i = true := by
  unfold decodeF at h
  split at h
  case h_10 => cases h
  all_goals
    rename_i hkk
    cases h
    exact ⟨formatXK_of_fields hop hkk, by cases m <;> rfl⟩

/-- The groups 0x5 and 0x9: the low nibble is kept as an operand, and is 0 where `strict` examines it (R75). -/
theorem wellFormed_of_lowNibbleAccepted {m : DecodeMode} {w : Word} (h : lowNibbleAccepted m w = true)
    (x y : Nibble) :
    WellFormed m (.seReg x y (fieldN w)) = true ∧ WellFormed m (.sneReg x y (fieldN w)) = true := by
  cases m <;> simp_all [lowNibbleAccepted, WellFormed]

theorem encode_of_decodeClass {m : DecodeMode} {w : Word} {i : Instr} (h : decodeClass m w = some i) :
    encode i = w ∧ WellFormed m i = true := by
  unfold decodeClass at h
  split at h
  case h_1 hop => cases h; exact encode_decode0 m hop
  case h_6 hop =>
    obtain ⟨hlow, hi⟩ := Option.ite_none_right_eq_some.1 h
    cases hi
    exact ⟨formatXY_of_fields hop rfl, (wellFormed_of_lowNibbleAccepted hlow _ _).1⟩
  case h_9 hop => exact encode_of_decode8 hop h
  case h_10 hop =>
    obtain ⟨hlow, hi⟩ := Option.ite_none_right_eq_some.1 h
    cases hi
    exact ⟨formatXY_of_fields hop rfl, (wellFormed_of_lowNibbleAccepted hlow _ _).2⟩
  case h_15 hop => exact encode_of_decodeE hop h
  case h_16 =>
    have hop : fieldOp w = 0xF#4 := by
      simp_all only [← BitVec.toNat_inj, imp_false, BitVec.reduceToNat]
      omega
    exact encode_of_decodeF hop h
  case h_2 hop | h_3 hop | h_11 hop | h_12 hop =>
    cases h
    exact ⟨formatA_of_fieldOp hop, by cases m <;> rfl⟩
  case h_14 hop =>
    cases h
    exact ⟨formatXY_of_fields hop rfl, by cases m <;> rfl⟩
  all_goals
    rename_i hop
    cases h
    exact ⟨formatXK_of_fields hop rfl, by cases m <;> rfl⟩

theorem decode_eq_ok_iff_encode {m : DecodeMode} {w : Word} {i : Instr} :
    decode m w = .ok i ↔ encode i = w ∧ WellFormed m i = true := by
  rw [decode_eq_ok]
  refine ⟨encode_of_decodeClass, ?_⟩
  rintro ⟨rfl, h⟩
  exact decodeClass_encode h

end Sys2Proof

namespace Sys2Proof.Machine

theorem EncodedAs.of_wellFormed {m : DecodeMode} {i : Instr} {v : Nat} (hwf : WellFormed m i = true)
    (hv : (encode i).toNat = v) : EncodedAs m i v := by
  intro w
  rw [decode_eq_ok_iff_encode, and_iff_left hwf, ← hv, BitVec.toNat_inj, eq_comm]

end Sys2Proof.Machine
end

section
/-! PROOFS. Arithmetic and logic (41_arith_logic.md): each instruction's words, the natural-number value of its result, and the registers and frame its effect leaves, over the normal form of `exec`. -/

namespace Sys2Proof.Machine

/-! The words of the two formats this family uses (R73); `v` is the value of the word's fixed fields. -/

theorem EncodedAs.of_formatXK {m : DecodeMode} {i : Instr} {op x : Nibble} {kk : Byte} {v : Nat}
    (henc : encode i = formatXK op x kk) (hv : op.toNat * 4096 = v) (hwf : WellFormed m i = true) :
    EncodedAs m i (v + x.toNat * 256 + kk.toNat) :=
  .of_wellFormed hwf (by rw [henc, toNat_formatXK, hv])

theorem EncodedAs.of_formatXY {m : DecodeMode} {i : Instr} {op x y n : Nibble} {v : Nat}
    (henc : encode i = formatXY op x y n) (hv : op.toNat * 4096 + n.toNat = v) (hwf : WellFormed m i = true) :
    EncodedAs m i (v + x.toNat * 256 + y.toNat * 16) :=
  .of_wellFormed hwf (by rw [henc, toNat_formatXY, ← hv]; ac_rfl)

/-! One register written, and nothing else. -/

theorem OnlyRegistersChange.of_setReg (s : State) (x : Nibble) (b : Byte) :
    OnlyRegistersChange s ((s.setReg x b).setWaiting false) :=
  ⟨rfl, fun _ => rfl⟩

/-- What an instruction does whose effect is one register write. -/
theorem exists_next_setReg {i : Instr} {s : State} {x : Nibble} {b : Byte}
    (hexec : exec i s = .next ((s.setReg x b).setWaiting false)) :
    ∃ t, exec i s = .next t ∧ OnlyRegistersChange s t ∧ (∀ j, j ≠ x → t.reg j = s.reg j) ∧ t.reg x = b :=
  ⟨_, hexec, .of_setReg s x b, fun _ => s.reg_setReg_ne b, s.reg_setReg_self x b⟩

/-- What an instruction does that writes a result and a flag (R101), with the two as facts about naturals. -/
theorem exists_next_resultAndFlag {i : Instr} {s : State} {x : Nibble} {r : Byte} {n : Nat} {f g : Bool}
    (hexec : exec i s = .next ((s.writeResultAndFlag x r f).setWaiting false)) (hr : r.toNat = n) (hf : f = g) :
    ∃ t, exec i s = .next t ∧ OnlyRegistersChange s t ∧ ResultAndFlag s t x n g := by
  subst hr hf
  exact ⟨_, hexec, .of_writeResultAndFlag s x r f, .of_write s x r f false⟩

/-! The wrapped difference (R100) and the shifted operand (R113) on naturals. -/

theorem toNat_sub_eq_add_mod (a b : Byte) : (a - b).toNat = (a.toNat + 256 - b.toNat) % 256 := by
  rw [BitVec.toNat_sub]
  omega

theorem State.shiftOperand_eq_reg {s : State} {x y z : Nibble}
    (h : s.params.shiftSource = .vx ∧ z = x ∨ s.params.shiftSource = .vy ∧ z = y) :
    s.shiftOperand x y = s.reg z := by
  obtain ⟨hsource, rfl⟩ | ⟨hsource, rfl⟩ := h <;> simp only [State.shiftOperand, hsource]

theorem toNat_ushiftRight_one (b : Byte) : (b >>> 1).toNat = b.toNat / 2 := by
  rw [BitVec.toNat_ushiftRight, Nat.shiftRight_one]

theorem toNat_shiftLeft_one (b : Byte) : (b <<< 1).toNat = b.toNat * 2 % 256 := by
  rw [BitVec.toNat_shiftLeft, Nat.shiftLeft_eq]

/-- Settles O28. Each writes Vx alone; a bit of OR, AND, XOR is that operation on the operands' bits. -/
theorem loadAndLogicResults : Obligations.LoadAndLogicResults := by
  unfold Obligations.LoadAndLogicResults
  intro s x y kk
  refine ⟨fun m => ?words, ?ldImm, ?ldReg, ?orReg, ?andReg, ?xorReg⟩
  case words =>
    refine ⟨.of_formatXK rfl rfl ?_, .of_formatXY rfl rfl ?_, .of_formatXY rfl rfl ?_,
      .of_formatXY rfl rfl ?_, .of_formatXY rfl rfl ?_⟩ <;> cases m <;> rfl
  case ldImm => exact ⟨_, exec_of_not_blocked rfl, .of_setReg s x kk, s.reg_setReg x kk⟩
  case ldReg => exact ⟨_, exec_of_not_blocked rfl, .of_setReg s x _, s.reg_setReg x (s.reg y)⟩
  case orReg =>
    obtain ⟨t, ht, hframe, hother, hx⟩ := exists_next_setReg (exec_of_not_blocked (i := .orReg x y) (s := s) rfl)
    exact ⟨t, ht, hframe, hother, fun k _ => by rw [hx, BitVec.getLsbD_or]⟩
  case andReg =>
    obtain ⟨t, ht, hframe, hother, hx⟩ := exists_next_setReg (exec_of_not_blocked (i := .andReg x y) (s := s) rfl)
    exact ⟨t, ht, hframe, hother, fun k _ => by rw [hx, BitVec.getLsbD_and]⟩
  case xorReg =>
    obtain ⟨t, ht, hframe, hother, hx⟩ := exists_next_setReg (exec_of_not_blocked (i := .xorReg x y) (s := s) rfl)
    exact ⟨t, ht, hframe, hother, fun k _ => by rw [hx, BitVec.getLsbD_xor]⟩

/-- Settles O29. The one register written is Vx, so VF keeps its value unless x is 0xF. -/
theorem addImmediateWrapsWithoutFlag : Obligations.AddImmediateWrapsWithoutFlag := by
  unfold Obligations.AddImmediateWrapsWithoutFlag
  intro s x kk
  obtain ⟨t, ht, hframe, hother, hx⟩ := exists_next_setReg (exec_of_not_blocked (i := .addImm x kk) (s := s) rfl)
  exact ⟨fun m => .of_formatXK rfl rfl (by cases m <;> rfl), t, ht, hframe, by rw [hx, BitVec.toNat_add], hother⟩

/-- Settles O30. The byte sum is the sum modulo 256; what `carryOf` compares is the sum before it wraps. -/
theorem addRegisterSetsCarry : Obligations.AddRegisterSetsCarry := by
  unfold Obligations.AddRegisterSetsCarry
  intro s x y
  exact ⟨fun m => .of_formatXY rfl rfl (by cases m <;> rfl),
    exists_next_resultAndFlag (exec_of_not_blocked rfl) (BitVec.toNat_add _ _) (carryOf_eq _ _)⟩

/-- Settles O31. SUBN is SUB with the operands' roles exchanged; VF is NOT borrow in both. -/
theorem subtractionsSetNotBorrow : Obligations.SubtractionsSetNotBorrow := by
  unfold Obligations.SubtractionsSetNotBorrow
  intro s x y
  refine ⟨fun m => ?words, ?sub, ?subn⟩
  case words => refine ⟨.of_formatXY rfl rfl ?_, .of_formatXY rfl rfl ?_⟩ <;> cases m <;> rfl
  case sub =>
    exact exists_next_resultAndFlag (exec_of_not_blocked rfl) (toNat_sub_eq_add_mod _ _) (noBorrow_eq _ _)
  case subn =>
    exact exists_next_resultAndFlag (exec_of_not_blocked rfl) (toNat_sub_eq_add_mod _ _) (noBorrow_eq _ _)

/-- Settles O32. `z` is the register SHIFT_SOURCE names, so the operand shifted is its value. -/
theorem shiftsSetBitShiftedOut : Obligations.ShiftsSetBitShiftedOut := by
  unfold Obligations.ShiftsSetBitShiftedOut
  intro s x y z hz
  rw [← s.shiftOperand_eq_reg hz]
  refine ⟨fun m => ?words, ?shr, ?shl⟩
  case words => refine ⟨.of_formatXY rfl rfl ?_, .of_formatXY rfl rfl ?_⟩ <;> cases m <;> rfl
  case shr => exact exists_next_resultAndFlag (exec_of_not_blocked rfl) (toNat_ushiftRight_one _) (lowBit_eq _)
  case shl => exact exists_next_resultAndFlag (exec_of_not_blocked rfl) (toNat_shiftLeft_one _) (highBit_eq _)

end Sys2Proof.Machine
end

section
/-! PROOFS. Control flow (42_control_flow.md): each instruction's words, the PC and the stack entries it leaves and the frame around them, and the faults of SYS, CALL and RET, over the normal form of `exec`. -/

namespace Sys2Proof.Machine

/-! The words of the format this family adds (R73), and which SYS words `source` reads neither as CLS nor as RET (R74). -/

theorem EncodedAs.of_formatA {m : DecodeMode} {i : Instr} {op : Nibble} {nnn : Addr12} {v : Nat}
    (henc : encode i = formatA op nnn) (hv : op.toNat * 4096 = v) (hwf : WellFormed m i = true) :
    EncodedAs m i (v + nnn.toNat) :=
  .of_wellFormed hwf (by rw [henc, toNat_formatA, hv])

theorem wellFormed_source_sys {nnn : Addr12} (hcls : nnn.toNat % 256 ≠ 0xE0) (hret : nnn.toNat % 256 ≠ 0xEE) :
    WellFormed .source (.sys nnn) = true := by
  have hlow : (nnn.extractLsb' 0 8).toNat = nnn.toNat % 256 := by simp
  have hne {b : Byte} (hb : nnn.toNat % 256 ≠ b.toNat) : (nnn.extractLsb' 0 8 != b) = true :=
    bne_iff_ne.2 (BitVec.toNat_ne_iff_ne.1 (hlow ▸ hb))
  exact Bool.and_eq_true_iff.2 ⟨hne hcls, hne hret⟩

/-! PC written, and nothing else. -/

theorem OnlyPcChanges.of_setPc (s : State) (a : Word) : OnlyPcChanges s ((s.setPc a).setWaiting false) :=
  ⟨rfl, fun _ => rfl⟩

theorem OnlyPcChanges.of_skipIf (s : State) (c : Bool) : OnlyPcChanges s ((s.skipIf c).setWaiting false) :=
  .of_setPc s _

/-! When SYS, CALL and RET fault (R130, R133, R131). -/

theorem blocked_sys_of_nop {s : State} (nnn : Addr12) (h : s.params.sysPolicy = .nop) :
    blocked (.sys nnn) s = none := by
  simp [blocked, h]

theorem blocked_sys_of_fault {s : State} (nnn : Addr12) (h : s.params.sysPolicy = .fault) :
    blocked (.sys nnn) s = some (.unimplementedInstruction, none) :=
  if_pos h

theorem blocked_call_of_room {s : State} (nnn : Addr12) (h : s.sp < s.params.stackDepth) :
    blocked (.call nnn) s = none :=
  if_pos h

theorem blocked_call_of_full {s : State} (nnn : Addr12) (h : ¬s.sp < s.params.stackDepth) :
    blocked (.call nnn) s = some (.stackOverflow, none) :=
  if_neg h

theorem blocked_ret_of_ne_nil {s : State} (x : Nibble) (h : s.stack ≠ []) : blocked (.ret x) s = none :=
  if_neg h

theorem blocked_ret_of_nil {s : State} (x : Nibble) (h : s.stack = []) :
    blocked (.ret x) s = some (.stackUnderflow, none) :=
  if_pos h

/-- The entries below the newest are those of the shorter stack: a push and a pop leave them in place (R32). -/
theorem State.stackEntry_of_stack_eq_cons {s t : State} {a : Word} {j : Nat} (h : t.stack = a :: s.stack)
    (hj : j < s.sp) : t.stackEntry j = s.stackEntry j := by
  unfold State.stackEntry
  rw [h, List.reverse_cons, List.getElem?_append_left (by rwa [List.length_reverse])]

theorem State.stack_eq_headD_cons_tail {s : State} (h : s.stack ≠ []) :
    s.stack = s.stack.headD 0 :: s.stack.tail := by
  obtain ⟨top, rest, hs⟩ := List.exists_cons_of_ne_nil h
  rw [hs, List.headD_cons, List.tail_cons]

/-- Settles O34. SYS has no effect of its own, so under `nop` only `waiting` is written. -/
theorem sysFollowsItsPolicy : Obligations.SysFollowsItsPolicy := by
  unfold Obligations.SysFollowsItsPolicy
  intro s nnn
  refine ⟨fun hcls hret => ?words, fun hnop => ?nop, fun hfault => ?fault⟩
  case words => exact Nat.zero_add nnn.toNat ▸ .of_formatA rfl rfl (wellFormed_source_sys hcls hret)
  case nop => exact ⟨_, exec_of_not_blocked (blocked_sys_of_nop nnn hnop), rfl, fun _ => rfl⟩
  case fault => exact exec_of_blocked (blocked_sys_of_fault nnn hfault)

/-- Settles O35. The sum JP V0 jumps to fits in 16 bits, so it is the sum of the naturals. -/
theorem jumpsWritePcOnly : Obligations.JumpsWritePcOnly := by
  unfold Obligations.JumpsWritePcOnly
  intro s nnn
  refine ⟨fun m => ?words, ?jp, ?jpV0⟩
  case words => refine ⟨.of_formatA rfl rfl ?_, .of_formatA rfl rfl ?_⟩ <;> cases m <;> rfl
  case jp => exact ⟨_, exec_of_not_blocked rfl, .of_setPc s _, toNat_addrOf nnn⟩
  case jpV0 => exact ⟨_, exec_of_not_blocked rfl, .of_setPc s _, s.toNat_indexedTarget nnn⟩

/-- Settles O36. The push puts the post-fetch PC on top of the older entries. -/
theorem callPushesOrOverflows : Obligations.CallPushesOrOverflows := by
  unfold Obligations.CallPushesOrOverflows
  intro s nnn
  refine ⟨fun m => ?words, fun hroom => ?push, fun hfull => ?overflow⟩
  case words => exact .of_formatA rfl rfl (by cases m <;> rfl)
  case push =>
    exact ⟨_, exec_of_not_blocked (blocked_call_of_room nnn hroom), rfl, fun _ => rfl, toNat_addrOf nnn, rfl,
      s.stackEntry_sp_setStack_cons s.pc, fun _ => State.stackEntry_of_stack_eq_cons rfl⟩
  case overflow => exact exec_of_blocked (blocked_call_of_full nnn hfull.not_lt)

/-- Settles O37. The pop takes the newest entry, so the stack before it is that entry on top of the stack after it. -/
theorem retPopsOrUnderflows : Obligations.RetPopsOrUnderflows := by
  unfold Obligations.RetPopsOrUnderflows
  intro s x
  refine ⟨?source, ?strict, fun hpos => ?pop, fun hzero => ?underflow⟩
  case source => exact .of_wellFormed rfl ((toNat_formatXK 0x0#4 x 0xEE#8).trans (by simp [Nat.add_comm]))
  case strict => exact .of_wellFormed rfl rfl
  case pop =>
    have hne : s.stack ≠ [] := List.ne_nil_of_length_pos hpos
    have hsp : (effect (.ret x) s).sp = s.sp - 1 := List.length_tail
    have holder (j : Nat) (hj : j < s.sp - 1) : s.stackEntry j = (effect (.ret x) s).stackEntry j :=
      State.stackEntry_of_stack_eq_cons (State.stack_eq_headD_cons_tail hne) (hsp ▸ hj)
    exact ⟨_, exec_of_not_blocked (blocked_ret_of_ne_nil x hne), rfl, fun _ => rfl, State.stackEntry_top hne, hsp,
      fun j hj => (holder j hj).symm⟩
  case underflow => exact exec_of_blocked (blocked_ret_of_nil x (List.length_eq_zero_iff.1 hzero))

/-- Settles O39. The conditions compare bytes, so they are equalities of naturals; a skip writes PC alone. -/
theorem skipsPassOverTwoBytes : Obligations.SkipsPassOverTwoBytes := by
  unfold Obligations.SkipsPassOverTwoBytes
  intro s x y n kk
  refine ⟨fun m => ?immediate, ?sourceSe, ?sourceSne, ?strictSe, ?strictSne, ?seImm, ?sneImm, ?seReg, ?sneReg⟩
  case immediate => refine ⟨.of_formatXK rfl rfl ?_, .of_formatXK rfl rfl ?_⟩ <;> cases m <;> rfl
  case sourceSe => exact .of_wellFormed rfl (toNat_formatXY 0x5#4 x y n)
  case sourceSne => exact .of_wellFormed rfl (toNat_formatXY 0x9#4 x y n)
  case strictSe => exact .of_formatXY rfl rfl rfl
  case strictSne => exact .of_formatXY rfl rfl rfl
  case seImm =>
    exact ⟨_, exec_of_not_blocked rfl, .of_skipIf s _, s.pc_skipIf_of_iff (beq_iff_toNat_eq _ _)⟩
  case sneImm =>
    exact ⟨_, exec_of_not_blocked rfl, .of_skipIf s _, s.pc_skipIf_not_of_iff (beq_iff_toNat_eq _ _)⟩
  case seReg =>
    exact ⟨_, exec_of_not_blocked rfl, .of_skipIf s _, s.pc_skipIf_of_iff (beq_iff_toNat_eq _ _)⟩
  case sneReg =>
    exact ⟨_, exec_of_not_blocked rfl, .of_skipIf s _, s.pc_skipIf_not_of_iff (beq_iff_toNat_eq _ _)⟩

end Sys2Proof.Machine
end

section
/-! PROOFS. Display (43_display.md): the pixels a sprite covers as the positions the drawing pass goes over, the pixels and VF a draw leaves, and what a second identical draw does, over the normal form of `exec`. -/

namespace Sys2Proof.Machine

/-! The positions of a sprite in the buffer (R151). -/

/-- The positions the set bits of the sprite at I land on, for DRW Vx, Vy, n, before the wraparound. -/
def State.spritePoints (s : State) (x y n : Nibble) : List (Nat × Nat) :=
  rowPoints (s.reg x).toNat (s.reg y).toNat (s.readBytes s.i.toNat n.toNat)

theorem State.nodup_spritePoints (s : State) (x y n : Nibble) : ((s.spritePoints x y n).map wrapPoint).Nodup :=
  rowPoints_nodup (by rw [State.length_readBytes]; omega)

theorem covers_iff_mem_spritePoints {s : State} {x y n : Nibble} {X Y : Nat} :
    Covers s x y n X Y ↔ (X, Y) ∈ (s.spritePoints x y n).map wrapPoint := by
  simp only [List.mem_map, State.spritePoints, mem_rowPoints, State.length_readBytes, State.getElem_readBytes]
  constructor
  · rintro ⟨r, c, hr, hc, hbit, rfl, rfl⟩
    exact ⟨_, ⟨r, hr, c, hc, hbit, rfl⟩, rfl⟩
  · rintro ⟨_, ⟨r, hr, c, hc, hbit, rfl⟩, hp⟩
    obtain ⟨rfl, rfl⟩ := Prod.mk.inj hp
    exact ⟨r, c, hr, hc, hbit, rfl, rfl⟩

theorem Covers.lt {s : State} {x y n : Nibble} {X Y : Nat} (h : Covers s x y n X Y) : X < 64 ∧ Y < 32 := by
  obtain ⟨r, c, -, -, -, rfl, rfl⟩ := h
  omega

/-- What a draw covers depends on the position, I and memory alone. -/
theorem covers_congr {s t : State} {x y n : Nibble} {X Y : Nat} (hx : t.reg x = s.reg x) (hy : t.reg y = s.reg y)
    (hi : t.i = s.i) (hmem : SameBytes s t) : Covers t x y n X Y ↔ Covers s x y n X Y := by
  unfold Covers
  simp only [hx, hy, hi, hmem _]

/-! The buffer and the registers a draw leaves (R152). -/

theorem State.drawSprite_eq (s : State) (x y n : Nibble) :
    s.drawSprite x y n =
      (s.setFb ((s.spritePoints x y n).foldl toggleAt (s.fb, false)).1).setReg vf
        (flagByte ((s.spritePoints x y n).foldl toggleAt (s.fb, false)).2) := by
  simp only [State.drawSprite, drawRows_eq, State.spritePoints]

theorem State.pixel_drawSprite (s : State) (x y n : Nibble) {X Y : Nat} (hX : X < 64) (hY : Y < 32) :
    (s.drawSprite x y n).fb.pixel X Y =
      (s.fb.pixel X Y ^^ decide ((X, Y) ∈ (s.spritePoints x y n).map wrapPoint)) := by
  have hwrap : wrapPoint (X, Y) = (X, Y) := by simp [wrapPoint, Nat.mod_eq_of_lt hX, Nat.mod_eq_of_lt hY]
  rw [State.drawSprite_eq, State.setReg_fb, State.setFb_fb, pixel_foldl_toggleAt (s.nodup_spritePoints x y n), hwrap]

theorem Covers.pixel_drawSprite {s : State} {x y n : Nibble} {X Y : Nat} (h : Covers s x y n X Y) :
    (s.drawSprite x y n).fb.pixel X Y = !s.fb.pixel X Y := by
  rw [s.pixel_drawSprite x y n h.lt.1 h.lt.2, decide_eq_true (covers_iff_mem_spritePoints.1 h), Bool.xor_true]

theorem State.pixel_drawSprite_of_not_covers {s : State} {x y n : Nibble} {X Y : Nat} (hX : X < 64) (hY : Y < 32)
    (h : ¬Covers s x y n X Y) : (s.drawSprite x y n).fb.pixel X Y = s.fb.pixel X Y := by
  rw [s.pixel_drawSprite x y n hX hY, decide_eq_false (mt covers_iff_mem_spritePoints.2 h), Bool.xor_false]

theorem State.reg_drawSprite_ne (s : State) (x y n : Nibble) {j : Nibble} (h : j ≠ vf) :
    (s.drawSprite x y n).reg j = s.reg j := by
  rw [State.drawSprite_eq, State.reg_setReg_ne _ _ h, State.setFb_reg]

theorem State.reg_vf_drawSprite (s : State) (x y n : Nibble) :
    (s.drawSprite x y n).reg vf = flagByte ((s.spritePoints x y n).any fun p => s.fb.pixel p.1 p.2) := by
  rw [State.drawSprite_eq, State.reg_setReg_self, collision_foldl_toggleAt (s.nodup_spritePoints x y n),
    Bool.false_or]

theorem flagByte_eq_one_iff (f : Bool) : flagByte f = 1#8 ↔ f = true := by
  cases f <;> decide

theorem flagByte_eq_one_or_zero (f : Bool) : flagByte f = 1#8 ∨ flagByte f = 0#8 := by
  cases f <;> decide

/-- A draw reports a collision exactly when some pixel it covers was on. -/
theorem State.reg_vf_drawSprite_eq_one_iff {s : State} {x y n : Nibble} :
    (s.drawSprite x y n).reg vf = 1#8 ↔
      ∃ X Y, X < 64 ∧ Y < 32 ∧ Covers s x y n X Y ∧ s.fb.pixel X Y = true := by
  rw [State.reg_vf_drawSprite, flagByte_eq_one_iff, List.any_eq_true]
  simp only [covers_iff_mem_spritePoints, List.mem_map]
  constructor
  · rintro ⟨p, hp, hon⟩
    exact ⟨p.1 % 64, p.2 % 32, Nat.mod_lt _ (by decide), Nat.mod_lt _ (by decide), ⟨p, hp, rfl⟩,
      (s.fb.pixel_mod p.1 p.2).trans hon⟩
  · rintro ⟨X, Y, -, -, ⟨p, hp, hwrap⟩, hon⟩
    obtain ⟨rfl, rfl⟩ := Prod.mk.inj hwrap
    exact ⟨p, hp, (s.fb.pixel_mod p.1 p.2).symm.trans hon⟩

theorem State.reg_vf_drawSprite_eq_one_or_zero (s : State) (x y n : Nibble) :
    (s.drawSprite x y n).reg vf = 1#8 ∨ (s.drawSprite x y n).reg vf = 0#8 := by
  rw [State.reg_vf_drawSprite]
  exact flagByte_eq_one_or_zero _

/-! When DRW faults (R56, R152). -/

theorem blocked_drw_of_inRange {s : State} (x y : Nibble) {n : Nibble}
    (h : n.toNat = 0 ∨ s.i.toNat + n.toNat - 1 ≤ 0xFFF) : blocked (.drw x y n) s = none := by
  have hcheck : checkRead s.i.toNat n.toNat = none := checkRead_eq_none.2 (by unfold memorySize; omega)
  simp only [blocked, hcheck, Option.map_none]

theorem blocked_drw_of_outOfRange {s : State} (x y : Nibble) {n : Nibble} (hn : 1 ≤ n.toNat)
    (h : 0xFFF < s.i.toNat + n.toNat - 1) :
    blocked (.drw x y n) s = some (.addressOutOfRange, some (max s.i.toNat 0x1000)) := by
  have hcheck : checkRead s.i.toNat n.toNat = some (.addressOutOfRange, max s.i.toNat 0x1000) :=
    checkRead_eq_some.2 ⟨rfl, outOfRange_of_lt hn h⟩
  simp only [blocked, hcheck, Option.map_some]

/-! Two identical draws (R153). -/

/-- The pixels a draw turns on are those it covers that were off. -/
theorem State.turned_on_by_drawSprite_iff {s : State} {x y n : Nibble} {X Y : Nat} (hX : X < 64) (hY : Y < 32) :
    s.fb.pixel X Y = false ∧ (s.drawSprite x y n).fb.pixel X Y = true ↔
      Covers s x y n X Y ∧ s.fb.pixel X Y = false := by
  by_cases h : Covers s x y n X Y
  · simp [h, h.pixel_drawSprite]
  · simp [h, State.pixel_drawSprite_of_not_covers hX hY h]

section
variable {s : State} {x y n : Nibble} (hx : x ≠ vf) (hy : y ≠ vf)
include hx hy

/-- A draw leaves I, memory and the registers of its position alone, so the next one covers the same pixels. -/
theorem covers_drawSprite_iff {X Y : Nat} : Covers (s.drawSprite x y n) x y n X Y ↔ Covers s x y n X Y :=
  covers_congr (s.reg_drawSprite_ne x y n hx) (s.reg_drawSprite_ne x y n hy) rfl fun _ => rfl

theorem State.fb_drawSprite_drawSprite : ((s.drawSprite x y n).drawSprite x y n).fb = s.fb := by
  refine Display.ext_pixel fun X Y hX hY => ?_
  by_cases h : Covers s x y n X Y
  · rw [((covers_drawSprite_iff hx hy).2 h).pixel_drawSprite, h.pixel_drawSprite, Bool.not_not]
  · rw [State.pixel_drawSprite_of_not_covers hX hY (mt (covers_drawSprite_iff hx hy).1 h),
      State.pixel_drawSprite_of_not_covers hX hY h]

/-- The second draw finds on exactly the covered pixels that were off at first. -/
theorem State.reg_vf_drawSprite_drawSprite_eq_one_iff :
    ((s.drawSprite x y n).drawSprite x y n).reg vf = 1#8 ↔
      ∃ X Y, X < 64 ∧ Y < 32 ∧ Covers s x y n X Y ∧ s.fb.pixel X Y = false := by
  rw [State.reg_vf_drawSprite_eq_one_iff]
  refine exists₂_congr fun X Y => and_congr_right fun _ => and_congr_right fun _ => ?_
  rw [covers_drawSprite_iff hx hy]
  refine and_congr_right fun h => ?_
  rw [h.pixel_drawSprite, Bool.not_eq_true']

end

/-- Settles O41. A covered pixel is a position of the drawing pass, which visits each at most once. -/
theorem drawTogglesCoveredPixels : Obligations.DrawTogglesCoveredPixels := by
  unfold Obligations.DrawTogglesCoveredPixels
  intro s x y n
  refine ⟨fun m => ?words, fun hin => ?draw, fun hn hout => ?fault⟩
  case words => exact .of_wellFormed (by cases m <;> rfl) (toNat_formatXY 0xD#4 x y n)
  case draw =>
    exact ⟨_, exec_of_not_blocked (blocked_drw_of_inRange x y hin), rfl, fun _ => rfl,
      fun X Y _ _ h => h.pixel_drawSprite,
      fun X Y hX hY h => State.pixel_drawSprite_of_not_covers hX hY h,
      State.reg_vf_drawSprite_eq_one_iff.2,
      fun h => (s.reg_vf_drawSprite_eq_one_or_zero x y n).resolve_left (mt State.reg_vf_drawSprite_eq_one_iff.1 h),
      fun j hj => s.reg_drawSprite_ne x y n hj⟩
  case fault => exact exec_of_blocked (blocked_drw_of_outOfRange x y hn hout)

/-- Settles O42. The first draw, having completed, leaves I alone, so the second completes too; it toggles the same pixels back. -/
theorem drawingTwiceRestoresTheDisplay : Obligations.DrawingTwiceRestoresTheDisplay := by
  unfold Obligations.DrawingTwiceRestoresTheDisplay
  intro s t u x y n hx hy hs hst ht htu
  obtain ⟨kind, addr, -, rfl⟩ | ⟨hrun, rfl⟩ := exec_cases hst
  · simp at ht
  have hrunAgain : blocked (.drw x y n) ((s.drawSprite x y n).setWaiting false) = none := hrun
  obtain rfl := Host.Outcome.next.inj ((exec_of_not_blocked hrunAgain).symm.trans htu)
  have hflag := State.reg_vf_drawSprite_drawSprite_eq_one_iff (s := s) (n := n) hx hy
  refine ⟨hs, State.fb_drawSprite_drawSprite hx hy,
    (s.drawSprite x y n).reg_vf_drawSprite_eq_one_or_zero x y n, hflag.trans ?turnedOn, hflag⟩
  case turnedOn =>
    exact exists₂_congr fun X Y => and_congr_right fun hX => and_congr_right fun hY =>
      (State.turned_on_by_drawSprite_iff hX hY).symm

/-- Settles O40. The one field the effect writes is the buffer, so VF is kept. -/
theorem clearTurnsEveryPixelOff : Obligations.ClearTurnsEveryPixelOff := by
  unfold Obligations.ClearTurnsEveryPixelOff
  intro s x
  refine ⟨?source, ?strict, _, exec_of_not_blocked rfl, rfl, fun _ => rfl, Display.pixel_clear⟩
  case source => exact .of_wellFormed rfl ((toNat_formatXK 0x0#4 x 0xE0#8).trans (by simp [Nat.add_comm]))
  case strict => exact .of_wellFormed rfl rfl

end Sys2Proof.Machine
end

section
/-! PROOFS. Timers and keypad (44_timer_key.md): each instruction's words, what it copies and the frame around the copy, over the normal form of `exec`. -/

namespace Sys2Proof.Machine

/-- The words of an instruction whose low byte is part of its opcode (R73); `v` is the value of the word's fixed fields. -/
theorem EncodedAs.of_formatXK_fixed {m : DecodeMode} {i : Instr} {op x : Nibble} {kk : Byte} {v : Nat}
    (henc : encode i = formatXK op x kk) (hv : op.toNat * 4096 + kk.toNat = v) (hwf : WellFormed m i = true) :
    EncodedAs m i (v + x.toNat * 256) :=
  .of_wellFormed hwf (by rw [henc, toNat_formatXK, ← hv]; ac_rfl)

/-- Settles O43. Each effect writes its destination alone, with the source's value. -/
theorem timerCopiesWriteTheirDestination : Obligations.TimerCopiesWriteTheirDestination := by
  unfold Obligations.TimerCopiesWriteTheirDestination
  intro s x
  refine ⟨fun m => ?words, ?ldVxDt, ?ldDtVx, ?ldStVx⟩
  case words =>
    refine ⟨.of_formatXK_fixed rfl rfl ?_, .of_formatXK_fixed rfl rfl ?_, .of_formatXK_fixed rfl rfl ?_⟩ <;>
      cases m <;> rfl
  case ldVxDt => exact ⟨_, exec_of_not_blocked rfl, .of_setReg s x s.dt, s.reg_setReg x s.dt⟩
  case ldDtVx => exact ⟨_, exec_of_not_blocked rfl, rfl, fun _ => rfl, rfl⟩
  case ldStVx => exact ⟨_, exec_of_not_blocked rfl, rfl, fun _ => rfl, rfl⟩

end Sys2Proof.Machine
end

section
/-! PROOFS. Index register and memory (45_index_memory.md): the values I is given and the frame of its writers, and what a block load leaves in the registers and in I or the fault it raises, over the normal form of `exec`. -/

namespace Sys2Proof.Machine

/-! I written, and nothing else. -/

theorem OnlyIndexChanges.of_setI (s : State) (a : Word) : OnlyIndexChanges s ((s.setI a).setWaiting false) :=
  ⟨rfl, fun _ => rfl⟩

/-- A byte or a register index added to I wraps at 16 bits (R191, R194). -/
theorem toNat_add_setWidth {w : Nat} (a : Word) (b : BitVec w) (hw : w ≤ 16) :
    (a + b.setWidth 16).toNat = (a.toNat + b.toNat) % 65536 := by
  rw [BitVec.toNat_add, BitVec.toNat_setWidth_of_le hw]

/-! The glyph address of R192: 5 * 0xFF fits in 16 bits, so it is the product of the naturals. -/

theorem toNat_glyphAddr (d : Byte) : (glyphAddr d).toNat = 5 * d.toNat := by
  unfold glyphAddr
  rw [BitVec.toNat_ofNat, Nat.mod_eq_of_lt (by omega)]

theorem fontDigitOf_of_full {p : Params} (b : Byte) (h : p.fontDigit = .full) : fontDigitOf p b = b := by
  simp only [fontDigitOf, h]

theorem toNat_fontDigitOf_of_lowNibble {p : Params} (b : Byte) (h : p.fontDigit = .lowNibble) :
    (fontDigitOf p b).toNat = b.toNat % 16 := by
  simp only [fontDigitOf, h, BitVec.toNat_and]
  exact Nat.and_two_pow_sub_one_eq_mod b.toNat 4

/-- Settles O46. Each effect writes I alone. -/
theorem indexWritesGiveTheirValue : Obligations.IndexWritesGiveTheirValue := by
  unfold Obligations.IndexWritesGiveTheirValue
  intro s x nnn
  refine ⟨fun m => ?words, ?ldI, ?addIVx, ?ldFVx⟩
  case words =>
    refine ⟨.of_formatA rfl rfl ?_, .of_formatXK_fixed rfl rfl ?_, .of_formatXK_fixed rfl rfl ?_⟩ <;>
      cases m <;> rfl
  case ldI => exact ⟨_, exec_of_not_blocked rfl, .of_setI s _, toNat_addrOf nnn⟩
  case addIVx => exact ⟨_, exec_of_not_blocked rfl, .of_setI s _, toNat_add_setWidth s.i (s.reg x) (by decide)⟩
  case ldFVx =>
    have hi : (effect (.ldFVx x) s).i.toNat = 5 * (fontDigitOf s.params (s.reg x)).toNat := toNat_glyphAddr _
    exact ⟨_, exec_of_not_blocked rfl, .of_setI s _,
      fun hfull => hi.trans (by rw [fontDigitOf_of_full _ hfull]),
      fun hlow => hi.trans (by rw [toNat_fontDigitOf_of_lowNibble _ hlow])⟩

/-! I after a block transfer (R194). -/

theorem State.i_afterTransfer_of_unchanged {s : State} (x : Nibble) (h : s.params.ldstI = .unchanged) :
    (s.afterTransfer x).i = s.i := by
  simp only [State.afterTransfer, h]

theorem State.toNat_i_afterTransfer_of_advance {s : State} (x : Nibble) (h : s.params.ldstI = .advance) :
    (s.afterTransfer x).i.toNat = (s.i.toNat + x.toNat + 1) % 65536 := by
  have hsum := toNat_add_setWidth s.i x (by decide)
  simp only [State.afterTransfer, h, State.setI_i]
  rw [BitVec.toNat_add, hsum, BitVec.toNat_ofNat]
  omega

/-! When LD Vx, [I] faults (R56, R196). -/

theorem blocked_ldVxMem_of_inRange {s : State} {x : Nibble} (h : s.i.toNat + x.toNat ≤ 0xFFF) :
    blocked (.ldVxMem x) s = none := by
  have hcheck : checkRead s.i.toNat (x.toNat + 1) = none := checkRead_eq_none.2 (.inr (Nat.succ_le_succ h))
  simp only [blocked, hcheck, Option.map_none]

theorem blocked_ldVxMem_of_outOfRange {s : State} {x : Nibble} (h : 0xFFF < s.i.toNat + x.toNat) :
    blocked (.ldVxMem x) s = some (.addressOutOfRange, some (max s.i.toNat 0x1000)) := by
  have hcheck : checkRead s.i.toNat (x.toNat + 1) = some (.addressOutOfRange, max s.i.toNat 0x1000) :=
    checkRead_eq_some.2 ⟨rfl, outOfRange_of_lt x.toNat.succ_pos h⟩
  simp only [blocked, hcheck, Option.map_some]

/-! The state a block load leaves (R196). -/

theorem effect_ldVxMem_frame (s : State) (x : Nibble) :
    (effect (.ldVxMem x) s).setWaiting false =
      { s with v := (effect (.ldVxMem x) s).v, i := (effect (.ldVxMem x) s).i, waiting := false } := by
  rw [State.mk.injEq]
  simp [effect]

theorem sameBytes_effect_ldVxMem (s : State) (x : Nibble) : SameBytes s (effect (.ldVxMem x) s) := by
  intro a
  simp only [effect, State.afterTransfer_readByte, State.setRegs_readByte]

/-- The load goes through the registers in order from V0, so Vj is given the byte at I + j. -/
theorem reg_effect_ldVxMem (s : State) (x j : Nibble) :
    (effect (.ldVxMem x) s).reg j =
      if j.toNat ≤ x.toNat then s.readByte (s.i.toNat + j.toNat) else s.reg j := by
  have hfit : 0 + (s.readBytes s.i.toNat (x.toNat + 1)).length ≤ 16 := by
    rw [State.length_readBytes]
    omega
  have hloaded : 0 ≤ j.toNat ∧ j.toNat < 0 + (x.toNat + 1) ↔ j.toNat ≤ x.toNat := by omega
  simp only [effect, State.afterTransfer_reg, State.reg_setRegs _ _ _ hfit, State.length_readBytes, hloaded,
    State.getElem_readBytes, Nat.sub_zero, dite_eq_ite]

theorem i_effect_ldVxMem_of_unchanged {s : State} (x : Nibble) (h : s.params.ldstI = .unchanged) :
    (effect (.ldVxMem x) s).i = s.i := by
  rw [effect, State.i_afterTransfer_of_unchanged x (by rwa [State.setRegs_params]), State.setRegs_i]

theorem toNat_i_effect_ldVxMem_of_advance {s : State} (x : Nibble) (h : s.params.ldstI = .advance) :
    (effect (.ldVxMem x) s).i.toNat = (s.i.toNat + x.toNat + 1) % 65536 := by
  rw [effect, State.toNat_i_afterTransfer_of_advance x (by rwa [State.setRegs_params]), State.setRegs_i]

/-- Settles O49. The load writes V0..Vx and I, and reads only in range; VF is a register like any other. -/
theorem blockLoadReadsRegisters : Obligations.BlockLoadReadsRegisters := by
  unfold Obligations.BlockLoadReadsRegisters
  intro s x
  refine ⟨fun m => ?words, fun hin => ?load, fun hout => ?fault⟩
  case words => exact .of_formatXK_fixed rfl rfl (by cases m <;> rfl)
  case load =>
    exact ⟨_, exec_of_not_blocked (blocked_ldVxMem_of_inRange hin), effect_ldVxMem_frame s x,
      sameBytes_effect_ldVxMem s x, reg_effect_ldVxMem s x, i_effect_ldVxMem_of_unchanged x,
      toNat_i_effect_ldVxMem_of_advance x⟩
  case fault => exact exec_of_blocked (blocked_ldVxMem_of_outOfRange hout)

end Sys2Proof.Machine
end

section
/-! PROOFS. What a fault leaves (60_exceptions.md R212), by its three sources in `execute_one`: the fetch, decode, the instruction; from it the state after a faulting step and after a faulted frame. One timer at a tick (R231). -/

namespace Sys2Proof.Machine

/-! The state a faulting `execute_one` leaves (R212). -/

/-- A fault, whatever its source, leaves the state before the fetch with the record, which names that state's PC. -/
theorem executeOne_eq_halt_of_fault {s t : State} {r : FaultRecord} (h : executeOne s = .next t)
    (hr : t.fault = some r) : t = s.halt r ∧ r.pc = s.pc := by
  obtain ⟨hs, ⟨-, rfl⟩ | ⟨w, -, -, rfl⟩ | ⟨i, -, hexec⟩⟩ := executeOne_cases h
  case inl =>
    obtain rfl : s.fetchFaultRecord = r := by simpa using hr
    exact ⟨rfl, rfl⟩
  case inr.inl =>
    obtain rfl : s.illegalRecord w = r := by simpa using hr
    exact ⟨rfl, rfl⟩
  case inr.inr =>
    obtain ⟨kind, addr, -, rfl⟩ | ⟨-, rfl⟩ := exec_cases hexec
    · rw [faulted_advance] at hr ⊢
      obtain rfl := Option.some.inj hr
      exact ⟨rfl, rfl⟩
    · simp [hs] at hr

/-- A step adds nothing to the `execute_one` that faults in it, for a fault ends the batch without a tick (R95). -/
theorem executeOne_of_step_of_fault {s t : State} {r : FaultRecord} (h : step s = .next t)
    (hr : t.fault = some r) : executeOne s = .next t := by
  obtain ⟨u, hu, rfl⟩ := step_eq_next.1 h
  have hur : u.fault = some r := hr
  rwa [afterStep_of_fault hur]

/-- Settles O9. In a step and in a frame the last `execute_one` is the one that faults, and it leaves the state it began in with the record. -/
theorem faultingInstructionChangesNothingElse : Obligations.FaultingInstructionChangesNothingElse := by
  unfold Obligations.FaultingInstructionChangesNothingElse
  refine ⟨fun s t r _ hstep hr => ?_, fun s t r hs hframe => ?_⟩
  · exact executeOne_eq_halt_of_fault (executeOne_of_step_of_fault hstep hr) hr
  · obtain ⟨hfault, -⟩ | ⟨k, u, hk, hu, hexec, hr⟩ := ((frameRunsBatchThenTicks s t).2 r).1 hframe
    · simp [hs] at hfault
    · exact ⟨k, u, hk, hu, executeOne_eq_halt_of_fault hexec hr⟩

/-! One timer at a tick (R231). -/

theorem toNat_tickTimer_of_pos (u : TimerUnderflow) {t : Byte} (h : 0 < t.toNat) :
    (tickTimer u t).toNat = t.toNat - 1 := by
  have hne : t ≠ 0#8 := by
    rintro rfl
    exact absurd h (by decide)
  simp only [tickTimer, hne, if_false]
  bv_omega

theorem toNat_tickTimer_hold_of_eq_zero {t : Byte} (h : t.toNat = 0) :
    (tickTimer .hold t).toNat = 0 := by
  have ht : t = 0#8 := BitVec.eq_of_toNat_eq h
  rw [ht]
  rfl

theorem toNat_tickTimer_reload60_of_eq_zero {t : Byte} (h : t.toNat = 0) :
    (tickTimer .reload60 t).toNat = 60 := by
  have ht : t = 0#8 := BitVec.eq_of_toNat_eq h
  rw [ht]
  rfl

/-- Settles O15. Both timers follow the law of one timer; the tick writes them and nothing else. -/
theorem timerTickCountsDown : Obligations.TimerTickCountsDown := by
  unfold Obligations.TimerTickCountsDown
  intro s
  simp only [State.timerTick_dt, State.timerTick_st]
  refine ⟨toNat_tickTimer_of_pos _, toNat_tickTimer_of_pos _, fun hu => ?hold, fun hu => ?reload60, rfl⟩
  case hold =>
    rw [hu]
    exact ⟨toNat_tickTimer_hold_of_eq_zero, toNat_tickTimer_hold_of_eq_zero⟩
  case reload60 =>
    rw [hu]
    exact ⟨toNat_tickTimer_reload60_of_eq_zero, toNat_tickTimer_reload60_of_eq_zero⟩

end Sys2Proof.Machine
end

section
/-! PROOFS. Construction (70_reset_and_hazards.md R250, R251): the load check, what a core without an image holds, and the bytes the load leaves. -/

namespace Sys2Proof.Machine

theorem loadAccepted_iff {p : Params} {image : List Byte} :
    loadAccepted p image = true ↔
      0x050 ≤ p.startAddr ∧ p.startAddr ≤ 0xFFF ∧ image.length ≤ 4096 - p.startAddr := by
  simp only [loadAccepted, fontEnd, memorySize, Bool.and_eq_true, decide_eq_true_eq, and_assoc]
  omega

theorem construct_isSome (p : Params) (image : List Byte) :
    (construct p image).isSome = loadAccepted p image := by
  cases h : loadAccepted p image <;> simp [construct, h]

/-- A core exists only after an accepted load, and is then the blank core with the image written (R251). -/
theorem construct_eq_some_iff {p : Params} {image : List Byte} {s : State} :
    construct p image = some s ↔
      loadAccepted p image = true ∧ (blankCore p).writeBytes p.startAddr image = s := by
  simp [construct]

theorem blankCore_memWf (p : Params) : (blankCore p).memWf = true := rfl

/-- Every cell of a core without an image reads as unlisted. -/
theorem blankCore_readByte (p : Params) (a : Nat) : (blankCore p).readByte a = p.initialByte a := rfl

theorem initialByte_of_lt (p : Params) {a : Nat} (h : a < 80) : p.initialByte a = p.fontData[a] :=
  dif_pos h

theorem initialByte_of_le (p : Params) {a : Nat} (h : 80 ≤ a) :
    p.initialByte a = fillByte p.resetFill.mem a :=
  dif_neg (Nat.not_lt.2 h)

/-- An image that fits is in memory verbatim. -/
theorem readByte_loaded (p : Params) {image : List Byte} (hfit : p.startAddr + image.length ≤ 4096)
    {k : Nat} (hk : k < image.length) :
    ((blankCore p).writeBytes p.startAddr image).readByte (p.startAddr + k) = image[k] := by
  rw [State.readByte_writeBytes (blankCore_memWf p) hfit, dif_pos (by omega)]
  simp only [Nat.add_sub_cancel_left]

/-- The load leaves the cells outside the image as construction put them. -/
theorem readByte_loaded_outside (p : Params) {image : List Byte} {a : Nat}
    (ha : a < p.startAddr ∨ p.startAddr + image.length ≤ a) :
    ((blankCore p).writeBytes p.startAddr image).readByte a = p.initialByte a := by
  rw [State.readByte_writeBytes_outside _ ha, blankCore_readByte]

theorem toNat_pc_blankCore {p : Params} (h : p.startAddr ≤ 0xFFF) : (blankCore p).pc.toNat = p.startAddr :=
  (BitVec.toNat_ofNat ..).trans (Nat.mod_eq_of_lt (by omega))

/-- Settles O17. The load writes memory alone, from START_ADDR on; the font lies below, so it and the free cells read as before the load. -/
theorem constructionLoadsTheImage : Obligations.ConstructionLoadsTheImage := by
  unfold Obligations.ConstructionLoadsTheImage
  intro p image
  refine ⟨by rw [construct_isSome, loadAccepted_iff], fun s h => ?core⟩
  obtain ⟨hload, rfl⟩ := construct_eq_some_iff.1 h
  obtain ⟨hfont, hstart, hlen⟩ := loadAccepted_iff.1 hload
  refine ⟨?verbatim, ?font, ?fill, ?rest⟩
  case verbatim => exact fun k hk => readByte_loaded p (by omega) hk
  case font =>
    intro a ha
    rw [readByte_loaded_outside p (by omega), initialByte_of_lt p ha]
  case fill =>
    intro a ha hout
    rw [readByte_loaded_outside p hout, initialByte_of_le p ha]
  case rest =>
    simp only [State.writeBytes_v, State.writeBytes_i, State.writeBytes_dt, State.writeBytes_st, State.writeBytes_pc,
      State.writeBytes_sp, State.writeBytes_fb, State.writeBytes_keyAsserted, State.writeBytes_keyCode,
      State.writeBytes_waiting, State.writeBytes_fault, State.writeBytes_params]
    exact ⟨rfl, rfl, rfl, rfl, toNat_pc_blankCore hstart, rfl, Display.pixel_clear, rfl, rfl, rfl, rfl, rfl⟩

end Sys2Proof.Machine
end

section
/-! PROOFS. The two round trips between words and instructions (30_encoding.md R71, R73–R75), which are the two directions of `decode_eq_ok_iff_encode`, and the words written out by hand. -/

namespace Sys2Proof.Machine

/-- Settles O1. A well-formed instruction is what its own encoding decodes to. -/
theorem decodeOfEncodeIsInstruction : Obligations.DecodeOfEncodeIsInstruction := by
  unfold Obligations.DecodeOfEncodeIsInstruction
  exact fun m i hwf => decode_eq_ok_iff_encode.2 ⟨rfl, hwf⟩

/-- Settles O2. Group by group (R74) the word is the format of the fields it was cut into. -/
theorem encodeOfDecodeIsWord : Obligations.EncodeOfDecodeIsWord := by
  unfold Obligations.EncodeOfDecodeIsWord
  exact fun m w i hdecode => decode_eq_ok_iff_encode.1 hdecode

/-- Settles O3, by evaluating the decoder on the eight words. -/
theorem writtenOutWordsDecode : Obligations.WrittenOutWordsDecode := by
  unfold Obligations.WrittenOutWordsDecode
  decide

end Sys2Proof.Machine
end

section
/-! PROOFS. What one `execute_one` of a running core does (40_dispatch.md R90, 60_exceptions.md R214): it halts with the record of one of three sources, or the decoded instruction completes. From it the step, and that a faulted core runs nothing (R217). -/

namespace Sys2Proof.Machine

/-- `r` is the record that one `execute_one` of a running core in `s` writes: the fetch faults, the word is illegal, or the decoded instruction raises a fault (R214). -/
def RaisesRecord (s : State) (r : FaultRecord) : Prop :=
  (s.fetch = none ∧ r = s.fetchFaultRecord) ∨
  (∃ w, s.fetch = some w ∧ decodeClass s.params.decodeMode w = none ∧ r = s.illegalRecord w) ∨
  ∃ i kind addr, Decodes s i ∧ blocked i s.advance = some (kind, addr) ∧
    r = ⟨kind, s.pc, some (encode i), addr⟩

/-- The state in which the instruction `i` fetched in `s` completes. -/
def State.completed (s : State) (i : Instr) : State := (effect i s.advance).setWaiting (waits i s)

@[simp] theorem waits_advance (i : Instr) (s : State) : waits i s.advance = waits i s := by
  cases i <;> rfl

theorem executeOne_of_raises {s : State} {r : FaultRecord} (hs : s.fault = none) (h : RaisesRecord s r) :
    executeOne s = .next (s.halt r) := by
  obtain ⟨hfetch, rfl⟩ | ⟨w, hfetch, hillegal, rfl⟩ | ⟨i, kind, addr, hdec, hblocked, rfl⟩ := h
  · exact executeOne_of_fetch_none hs hfetch
  · exact executeOne_of_illegal hs hfetch hillegal
  · rw [executeOne_of_decodes hs hdec, exec_of_blocked hblocked, faulted_advance]
    rfl

theorem executeOne_of_not_blocked {s : State} {i : Instr} (hs : s.fault = none) (hdec : Decodes s i)
    (hrun : blocked i s.advance = none) : executeOne s = .next (s.completed i) := by
  rw [executeOne_of_decodes hs hdec, exec_of_not_blocked hrun, waits_advance]
  rfl

theorem fault_completed {s : State} (hs : s.fault = none) (i : Instr) : (s.completed i).fault = none := by
  simp [State.completed, hs]

/-- The two ways an `execute_one` can end. -/
theorem executeOne_halts_or_completes {s t : State} (h : executeOne s = .next t) :
    s.fault = none ∧ ((∃ r, RaisesRecord s r ∧ t = s.halt r) ∨
      ∃ i, Decodes s i ∧ blocked i s.advance = none ∧ t = s.completed i) := by
  obtain ⟨hs, ⟨hfetch, rfl⟩ | ⟨w, hfetch, hillegal, rfl⟩ | ⟨i, hdec, hexec⟩⟩ := executeOne_cases h
  · exact ⟨hs, .inl ⟨_, .inl ⟨State.fetch_eq_none.2 hfetch, rfl⟩, rfl⟩⟩
  · exact ⟨hs, .inl ⟨_, .inr (.inl ⟨w, hfetch, hillegal, rfl⟩), rfl⟩⟩
  · obtain ⟨kind, addr, hblocked, rfl⟩ | ⟨hrun, rfl⟩ := exec_cases hexec
    · exact ⟨hs, .inl ⟨_, .inr (.inr ⟨i, kind, addr, hdec, hblocked, rfl⟩), faulted_advance s kind addr i⟩⟩
    · exact ⟨hs, .inr ⟨i, hdec, hrun, by rw [waits_advance]; rfl⟩⟩

/-- The record an `execute_one` leaves is one its state raises. -/
theorem raisesRecord_of_fault {s t : State} {r : FaultRecord} (h : executeOne s = .next t)
    (hr : t.fault = some r) : RaisesRecord s r := by
  obtain ⟨hs, ⟨r', hraises, rfl⟩ | ⟨i, -, -, rfl⟩⟩ := executeOne_halts_or_completes h
  · obtain rfl : r' = r := Option.some.inj hr
    exact hraises
  · rw [fault_completed hs] at hr
    cases hr

/-- An `execute_one` that leaves no record is the completion of the decoded instruction. -/
theorem completed_of_fault_eq_none {s t : State} (h : executeOne s = .next t) (ht : t.fault = none) :
    ∃ i, Decodes s i ∧ blocked i s.advance = none ∧ t = s.completed i := by
  obtain ⟨-, ⟨r, -, rfl⟩ | hcompleted⟩ := executeOne_halts_or_completes h
  · cases ht
  · exact hcompleted

theorem executeOne_of_fault {s : State} {r : FaultRecord} (h : s.fault = some r) :
    executeOne s = .fault (.halted r) := by
  simp [executeOne, h]

theorem step_of_fault {s : State} {r : FaultRecord} (h : s.fault = some r) : step s = .fault (.halted r) := by
  simp [step, stepInFrame, executeOne_of_fault h]

theorem step_of_executeOne {s t : State} (h : executeOne s = .next t) : step s = .next t.afterStep :=
  step_eq_next.2 ⟨t, h, rfl⟩

/-- Settles O6. The three things a frame can do after a step. -/
theorem stepRunsDecodedInstruction : Obligations.StepRunsDecodedInstruction := by
  unfold Obligations.StepRunsDecodedInstruction
  intro s t i hs hdec hexec
  have hstep : step s = .next t.afterStep := step_of_executeOne ((executeOne_of_decodes hs hdec).trans hexec)
  refine ⟨fun hfault => ?_, fun hnone hinside => ?_, fun hnone hlast => ?_⟩
  · obtain ⟨r, hr⟩ := Option.ne_none_iff_exists'.1 hfault
    rw [hstep, afterStep_of_fault hr]
  · rw [hstep, afterStep_inside hnone hinside]
  · rw [hstep, afterStep_last hnone hlast]

/-- Settles O7. A word is determined by its value, so `w` is the word the two bytes form. -/
theorem executeOneFetchesDecodesDispatches : Obligations.ExecuteOneFetchesDecodesDispatches := by
  unfold Obligations.ExecuteOneFetchesDecodesDispatches
  refine fun s => ⟨fun r => executeOne_of_fault, fun hs hpc => ?fetchFault, fun hs hpc w hw => ?fetched⟩
  case fetchFault => exact executeOne_of_fetch_none hs (State.fetch_eq_none.2 hpc)
  case fetched =>
    have hfetch : s.fetch = some w :=
      State.fetch_eq_some.2 ⟨hpc, BitVec.eq_of_toNat_eq (hw.trans (toNat_wordOfBytes _ _).symm)⟩
    exact ⟨fun i hi => executeOne_of_decodes hs (decodes_iff.2 ⟨w, hfetch, hi⟩),
      fun e he => executeOne_of_illegal hs hfetch (decode_eq_error.1 he).1⟩

/-- Settles O8. A running core's `execute_one` gives a next state, and so does what its frame does after it. -/
theorem runningCoreAlwaysSteps : Obligations.RunningCoreAlwaysSteps := by
  unfold Obligations.RunningCoreAlwaysSteps
  refine fun s => ⟨fun hs => ?_, fun r => step_of_fault⟩
  obtain ⟨t, ht⟩ := executeOne_next hs
  exact ⟨_, step_of_executeOne ht⟩

/-- Settles O12. A run of one or more steps begins with a step, which the core has stopped taking. -/
theorem faultedCoreRunsNothing : Obligations.FaultedCoreRunsNothing := by
  unfold Obligations.FaultedCoreRunsNothing
  intro s r hr
  have hstep : Sys2Proof.core.step s = .fault (.halted r) := step_of_fault hr
  exact ⟨frame_of_fault hr, fun t => by simp [step_of_fault hr], fun k t => by simp [Host.Core.run, hstep]⟩

end Sys2Proof.Machine
end

section
/-! PROOFS. The causes of the fault kinds (60_exceptions.md R210): which instruction raises which kind in which state, the address the kind records, and what a record says (R211). -/

namespace Sys2Proof.Machine

/-! What the address checks find (R56, R54). -/

theorem checkRead_eq_some_iff {base n a : Nat} {k : FaultKind} :
    checkRead base n = some (k, a) ↔
      k = .addressOutOfRange ∧ a = max base 0x1000 ∧ 1 ≤ n ∧ 0xFFF < base + n - 1 := by
  rw [checkRead_eq_some]
  refine and_congr_right fun _ => ⟨fun h => ?_, fun ⟨ha, hn, hlt⟩ => ha ▸ outOfRange_of_lt hn hlt⟩
  have hout : 1 ≤ n ∧ 0xFFF < base + n - 1 := by
    obtain ⟨⟨hbase, ha, hsize⟩, -⟩ := outOfRange_eq_some.1 h
    simp only [memorySize] at hsize
    omega
  rw [outOfRange_of_lt hout.1 hout.2] at h
  exact ⟨(Option.some.inj h).symm, hout⟩

theorem checkWrite_eq_some_iff {p : Params} {base n a : Nat} {k : FaultKind} (hn : 1 ≤ n) :
    checkWrite p base n = some (k, a) ↔
      (k = .addressOutOfRange ∧ a = max base 0x1000 ∧ 0xFFF < base + n - 1) ∨
      (k = .readOnlyWrite ∧ a = base ∧ base + n - 1 ≤ 0xFFF ∧ p.fontWrite = .fault ∧ base < 0x050) := by
  unfold checkWrite
  by_cases hlt : 0xFFF < base + n - 1
  · simp only [outOfRange_of_lt hn hlt]
    grind
  · simp only [outOfRange_of_le (Nat.not_lt.1 hlt), fontEnd]
    grind

/-! The causes. -/

/-- The address a record of the kind names, for a fault an instruction raises (the info column of R210). -/
def faultAddr (k : FaultKind) (s : State) : Option Nat :=
  match k with
  | .addressOutOfRange => some (max s.i.toNat 0x1000)
  | .readOnlyWrite => some s.i.toNat
  | _ => none

/-- The instruction `i` has a cause of the kind `k` in `s` (the cause column of R210). -/
def Cause (k : FaultKind) (i : Instr) (s : State) : Prop :=
  match k with
  | .stackOverflow => (∃ nnn, i = .call nnn) ∧ s.params.stackDepth ≤ s.sp
  | .stackUnderflow => (∃ x, i = .ret x) ∧ s.sp = 0
  | .unimplementedInstruction => (∃ nnn, i = .sys nnn) ∧ s.params.sysPolicy = .fault
  | .addressOutOfRange =>
    (∃ x y n : Nibble, i = .drw x y n ∧ 1 ≤ n.toNat ∧ 0xFFF < s.i.toNat + n.toNat - 1) ∨
    (∃ x, i = .ldBVx x ∧ 0xFFF < s.i.toNat + 2) ∨
    (∃ x : Nibble, i = .ldMemVx x ∧ 0xFFF < s.i.toNat + x.toNat) ∨
    (∃ x : Nibble, i = .ldVxMem x ∧ 0xFFF < s.i.toNat + x.toNat)
  | .readOnlyWrite => s.params.fontWrite = .fault ∧ s.i.toNat < 0x050 ∧ ∃ x, i = .ldBVx x ∨ i = .ldMemVx x

theorem map_addr_eq_some_iff {o : Option (FaultKind × Nat)} {k : FaultKind} {a : Option Nat} :
    (o.map fun f => (f.1, some f.2)) = some (k, a) ↔ ∃ b, o = some (k, b) ∧ a = some b := by
  cases o <;> simp [Prod.ext_iff, eq_comm]

/-- A block that begins in the font ends in memory, so both stores into it raise ReadOnlyWrite. -/
theorem blocked_eq_some_iff {i : Instr} {s : State} {k : FaultKind} {a : Option Nat} :
    blocked i s = some (k, a) ↔ a = faultAddr k s ∧ Cause k i s := by
  cases i
  case sys nnn | ret x | call nnn => cases k <;> simp [blocked, faultAddr, Cause, State.sp] <;> grind
  case drw x y n | ldVxMem x =>
    simp only [blocked, map_addr_eq_some_iff, checkRead_eq_some_iff]
    cases k <;> simp [faultAddr, Cause, and_comm]
  case ldBVx x =>
    simp only [blocked, map_addr_eq_some_iff, checkWrite_eq_some_iff (show 1 ≤ 3 by decide)]
    cases k <;> simp [faultAddr, Cause] <;> grind
  case ldMemVx x =>
    have hx : x.toNat < 16 := x.isLt
    simp only [blocked, map_addr_eq_some_iff, checkWrite_eq_some_iff x.toNat.succ_pos]
    cases k <;> simp [faultAddr, Cause] <;> grind
  -- No other instruction is checked, and none is the cause of a kind.
  all_goals cases k <;> simp [blocked, Cause]

/-! The record of an `execute_one`. -/

/-- The causes of the kind `k` in a running core: for two kinds also the fetch and the decoder (R90, R92). -/
theorem exists_raisesRecord_iff {s : State} {k : FaultKind} :
    (∃ r, RaisesRecord s r ∧ r.kind = k) ↔
      (k = .addressOutOfRange ∧ 0xFFF < s.pc.toNat + 1) ∨
      (k = .unimplementedInstruction ∧ s.pc.toNat + 1 ≤ 0xFFF ∧ ∀ i, ¬Decodes s i) ∨
      ∃ i, Decodes s i ∧ Cause k i s := by
  constructor
  · rintro ⟨r, ⟨hfetch, rfl⟩ | ⟨w, hfetch, hillegal, rfl⟩ | ⟨i, kind, addr, hdec, hblocked, rfl⟩, rfl⟩
    · exact .inl ⟨rfl, State.fetch_eq_none.1 hfetch⟩
    · refine .inr (.inl ⟨rfl, (State.fetch_eq_some.1 hfetch).1, fun i hi => ?_⟩)
      obtain ⟨w', hw', hdec⟩ := decodes_iff.1 hi
      obtain rfl : w = w' := Option.some.inj (hfetch.symm.trans hw')
      exact decode_ne_ok_iff.2 hillegal i hdec
    · exact .inr (.inr ⟨i, hdec, (blocked_eq_some_iff.1 hblocked).2⟩)
  · rintro (⟨rfl, hpc⟩ | ⟨rfl, hpc, hnone⟩ | ⟨i, hdec, hcause⟩)
    · exact ⟨_, .inl ⟨State.fetch_eq_none.2 hpc, rfl⟩, rfl⟩
    · have hfetch := State.fetch_eq_some.2 ⟨hpc, rfl⟩
      exact ⟨_, .inr (.inl ⟨_, hfetch, decode_ne_ok_iff.1 fun i hi => hnone i ⟨hpc, hi⟩, rfl⟩), rfl⟩
    · exact ⟨_, .inr (.inr ⟨i, k, _, hdec, blocked_eq_some_iff.2 ⟨rfl, hcause⟩, rfl⟩), rfl⟩

/-- Settles O10. Each kind's causes, over the one instruction that decodes at PC. -/
theorem faultKindsHaveExactlyTheirCauses : Obligations.FaultKindsHaveExactlyTheirCauses := by
  unfold Obligations.FaultKindsHaveExactlyTheirCauses
  intro s t hs hsp h
  have hrecord (k : FaultKind) :
      (∃ r, t.fault = some r ∧ r.kind = k) ↔ ∃ r, RaisesRecord s r ∧ r.kind = k := by
    refine exists_congr fun r => and_congr_left fun _ => ⟨raisesRecord_of_fault h, fun hraises => ?_⟩
    obtain rfl := Host.Outcome.next.inj (h.symm.trans (executeOne_of_raises hs hraises))
    rfl
  have hfetched (i : Instr) (hdec : Decodes s i) : s.pc.toNat + 1 ≤ 0xFFF := hdec.1
  simp only [hrecord, exists_raisesRecord_iff, Cause]
  refine ⟨?overflow, ?underflow, ?unimplemented, ?outOfRange, ?readOnly⟩
  -- What is left in each: the instruction that has the cause is the one that decodes, and for CALL, SP within capacity.
  all_goals grind

/-- Settles O11. Each of the three sources writes the PC before the fetch; a decoded word is the encoding of its instruction. -/
theorem faultRecordNamesInstruction : Obligations.FaultRecordNamesInstruction := by
  unfold Obligations.FaultRecordNamesInstruction
  intro s t r hs h hr
  obtain ⟨hfetch, rfl⟩ | ⟨w, hfetch, -, rfl⟩ | ⟨i, kind, addr, ⟨hpc, hword⟩, hblocked, rfl⟩ := raisesRecord_of_fault h hr
  case inl =>
    have hpc := State.fetch_eq_none.1 hfetch
    simp [State.fetchFaultRecord, hpc.not_ge]
  case inr.inl =>
    obtain ⟨hpc, rfl⟩ := State.fetch_eq_some.1 hfetch
    simp [State.illegalRecord, hpc]
  case inr.inr =>
    obtain ⟨rfl, -⟩ := blocked_eq_some_iff.1 hblocked
    rw [(decode_eq_ok_iff_encode.1 hword).1]
    cases kind <;> simp [hpc, faultAddr]

end Sys2Proof.Machine
end

section
/-! PROOFS. Stores (45_index_memory.md R193, R195): the bytes an instruction stores and where, when a store is stopped, what memory reads after it; from it LD B, Vx and LD [I], Vx, the font (20_memory.md R54) and the fetch after a store (R61). -/

namespace Sys2Proof.Machine

/-- The bytes the instruction stores from I on; none unless it is LD B, Vx or LD [I], Vx (R58). -/
def storedBytes (i : Instr) (s : State) : List Byte :=
  match i with
  | .ldBVx x => bcdDigits (s.reg x)
  | .ldMemVx x => s.regsUpTo x
  | _ => []

/-- Memory after an instruction is memory with its bytes stored. -/
theorem effect_mem (i : Instr) (s : State) :
    (effect i s).mem = (s.writeBytes s.i.toNat (storedBytes i s)).mem := by
  cases i
  case ldMemVx x => exact State.afterTransfer_mem _ x
  case ldBVx x => rfl
  all_goals simp [effect, storedBytes, State.writeBytes]

theorem effect_readByte (i : Instr) (s : State) (k : Nat) :
    (effect i s).readByte k = (s.writeBytes s.i.toNat (storedBytes i s)).readByte k := by
  simp only [State.readByte, effect_mem, effect_params, State.writeBytes_params]

theorem effect_memWf (i : Instr) (s : State) :
    (effect i s).memWf = (s.writeBytes s.i.toNat (storedBytes i s)).memWf :=
  State.memWf_congr (by rw [effect_params, State.writeBytes_params]) (effect_mem i s)

theorem sameBytes_effect {i : Instr} {s : State} (h : storedBytes i s = []) : SameBytes s (effect i s) := by
  intro k
  rw [effect_readByte, h]
  rfl

theorem sameBytesOutside_effect (i : Instr) (s : State) :
    SameBytesOutside s (effect i s) s.i.toNat (storedBytes i s).length := by
  intro k hk
  rw [effect_readByte, State.readByte_writeBytes_outside s hk]

/-- The `k`-th byte stored reads back, when the block lies in memory. -/
theorem readByte_effect_stored {i : Instr} {s : State} (hwf : s.memWf = true)
    (hfit : s.i.toNat + (storedBytes i s).length ≤ memorySize) {k : Nat} (hk : k < (storedBytes i s).length) :
    (effect i s).readByte (s.i.toNat + k) = (storedBytes i s)[k] := by
  rw [effect_readByte, State.readByte_writeBytes hwf hfit, dif_pos (by omega)]
  simp only [Nat.add_sub_cancel_left]

/-! When a store is stopped (R54, R56). -/

/-- An instruction that is not stopped stores nothing, or stores in memory and not in a font that is read-only. -/
theorem store_in_bounds {i : Instr} {s : State} (h : blocked i s = none) :
    storedBytes i s = [] ∨ s.i.toNat + (storedBytes i s).length ≤ memorySize ∧
      (s.params.fontWrite = .write ∨ fontEnd ≤ s.i.toNat) := by
  cases i
  case ldBVx x => exact .inr ((checkWrite_eq_none (Nat.succ_pos 2)).1 (Option.map_eq_none_iff.1 h))
  case ldMemVx x =>
    rw [storedBytes, State.length_regsUpTo]
    exact .inr ((checkWrite_eq_none x.toNat.succ_pos).1 (Option.map_eq_none_iff.1 h))
  all_goals exact .inl rfl

/-- Memory stays in canonical form when an instruction completes. -/
theorem memWf_effect {i : Instr} {s : State} (hwf : s.memWf = true) (h : blocked i s = none) :
    (effect i s).memWf = true := by
  rw [effect_memWf]
  obtain hnil | ⟨hfit, -⟩ := store_in_bounds h
  · rwa [hnil]
  · exact State.writeBytes_memWf hwf hfit

/-- A font that is read-only keeps its bytes when an instruction completes. -/
theorem readByte_effect_font {i : Instr} {s : State} (h : blocked i s = none) (hfont : s.params.fontWrite = .fault)
    {a : Nat} (ha : a < fontEnd) : (effect i s).readByte a = s.readByte a := by
  obtain hnil | ⟨-, hwrite | hbase⟩ := store_in_bounds h
  · exact sameBytes_effect hnil a
  · cases hfont.symm.trans hwrite
  · exact sameBytesOutside_effect i s a (.inl (ha.trans_le hbase))

/-- Settles O20. A fault writes no byte, an instruction that completes stores above the font, a tick writes timers. -/
theorem fontIsNeverMutated : Obligations.FontIsNeverMutated := by
  unfold Obligations.FontIsNeverMutated
  intro s u hfont hstep a ha
  obtain ⟨t, ht, rfl⟩ := step_eq_next.1 hstep
  rw [State.afterStep_readByte]
  obtain ⟨-, ⟨r, -, rfl⟩ | ⟨i, -, hrun, rfl⟩⟩ := executeOne_halts_or_completes ht
  · rfl
  · exact readByte_effect_font hrun hfont ha

/-! LD B, Vx and LD [I], Vx. -/

theorem checkWrite_eq_none_of_allowed {p : Params} {base n : Nat} (hn : 1 ≤ n) (hin : base + n - 1 ≤ 0xFFF)
    (hfont : p.fontWrite = .write ∨ 0x050 ≤ base) : checkWrite p base n = none := by
  refine (checkWrite_eq_none hn).2 ⟨?_, hfont⟩
  simp only [memorySize]
  omega

theorem blocked_ldBVx_of_allowed {s : State} (x : Nibble) (hin : s.i.toNat + 2 ≤ 0xFFF)
    (hfont : s.params.fontWrite = .write ∨ 0x050 ≤ s.i.toNat) : blocked (.ldBVx x) s = none :=
  Option.map_eq_none_iff.2 (checkWrite_eq_none_of_allowed (Nat.succ_pos 2) hin hfont)

theorem blocked_ldMemVx_of_allowed {s : State} {x : Nibble} (hin : s.i.toNat + x.toNat ≤ 0xFFF)
    (hfont : s.params.fontWrite = .write ∨ 0x050 ≤ s.i.toNat) : blocked (.ldMemVx x) s = none :=
  Option.map_eq_none_iff.2 (checkWrite_eq_none_of_allowed x.toNat.succ_pos hin hfont)

theorem inRange_of_ldMemVx_not_blocked {s : State} {x : Nibble} (h : blocked (.ldMemVx x) s = none) :
    s.i.toNat + x.toNat ≤ 0xFFF :=
  Nat.le_of_succ_le_succ ((checkWrite_eq_none x.toNat.succ_pos).1 (Option.map_eq_none_iff.1 h)).1

theorem effect_ldBVx_frame (s : State) (x : Nibble) :
    (effect (.ldBVx x) s).setWaiting false =
      { s with mem := (effect (.ldBVx x) s).mem, waiting := false } := by
  rw [State.mk.injEq]
  simp [effect]

theorem effect_ldMemVx_frame (s : State) (x : Nibble) :
    (effect (.ldMemVx x) s).setWaiting false =
      { s with mem := (effect (.ldMemVx x) s).mem, i := (effect (.ldMemVx x) s).i, waiting := false } := by
  rw [State.mk.injEq]
  simp [effect]

theorem readByte_effect_ldBVx {s : State} (hwf : s.memWf = true) (x : Nibble) (hin : s.i.toNat + 2 ≤ 0xFFF) {k : Nat}
    (hk : k < 3) : (effect (.ldBVx x) s).readByte (s.i.toNat + k) = (bcdDigits (s.reg x))[k] :=
  readByte_effect_stored (i := .ldBVx x) hwf (Nat.succ_le_succ hin) hk

theorem readByte_effect_ldMemVx {s : State} {x j : Nibble} (hwf : s.memWf = true)
    (hin : s.i.toNat + x.toNat ≤ 0xFFF) (hj : j.toNat ≤ x.toNat) :
    (effect (.ldMemVx x) s).readByte (s.i.toNat + j.toNat) = s.reg j := by
  have hlen : (storedBytes (.ldMemVx x) s).length = x.toNat + 1 := s.length_regsUpTo x
  rw [readByte_effect_stored hwf (hlen ▸ Nat.succ_le_succ hin) (hlen ▸ Nat.lt_succ_of_le hj)]
  simp only [storedBytes, State.getElem_regsUpTo, BitVec.ofNat_toNat, BitVec.setWidth_eq]

theorem i_effect_ldMemVx_of_unchanged {s : State} (x : Nibble) (h : s.params.ldstI = .unchanged) :
    (effect (.ldMemVx x) s).i = s.i := by
  rw [effect, State.i_afterTransfer_of_unchanged x (by rwa [State.writeBytes_params]), State.writeBytes_i]

theorem toNat_i_effect_ldMemVx_of_advance {s : State} (x : Nibble) (h : s.params.ldstI = .advance) :
    (effect (.ldMemVx x) s).i.toNat = (s.i.toNat + x.toNat + 1) % 65536 := by
  rw [effect, State.toNat_i_afterTransfer_of_advance x (by rwa [State.writeBytes_params]), State.writeBytes_i]

/-- The digits of a byte are below 256, so the bytes stored are the digits. -/
theorem toNat_bcdDigits (b : Byte) :
    (bcdDigits b).map BitVec.toNat = [b.toNat / 100, b.toNat / 10 % 10, b.toNat % 10] := by
  simp only [bcdDigits, List.map_cons, List.map_nil, BitVec.toNat_ofNat, List.cons.injEq, and_true]
  omega

/-- Settles O47. The three digits are the bytes stored from I on; either fault comes before the first of them. -/
theorem bcdStoreWritesThreeDigits : Obligations.BcdStoreWritesThreeDigits := by
  unfold Obligations.BcdStoreWritesThreeDigits
  intro s x hwf
  refine ⟨fun m => ?words, fun hin hfont => ?store, fun hout => ?outOfRange, fun hfont hbase => ?readOnly⟩
  case words => exact .of_formatXK_fixed rfl rfl (by cases m <;> rfl)
  case outOfRange => exact exec_of_blocked (blocked_eq_some_iff.2 ⟨rfl, .inr (.inl ⟨x, rfl, hout⟩)⟩)
  case readOnly => exact exec_of_blocked (blocked_eq_some_iff.2 ⟨rfl, hfont, hbase, x, .inl rfl⟩)
  case store =>
    have hrun := blocked_ldBVx_of_allowed x hin hfont
    have hdigits := toNat_bcdDigits (s.reg x)
    simp only [bcdDigits, List.map_cons, List.map_nil, List.cons.injEq, and_true] at hdigits
    obtain ⟨hhundreds, htens, hones⟩ := hdigits
    have hstored {k : Nat} (hk : k < 3) := readByte_effect_ldBVx hwf x hin hk
    exact ⟨_, exec_of_not_blocked hrun, effect_ldBVx_frame s x,
      (congrArg BitVec.toNat (hstored (k := 0) (by decide))).trans hhundreds,
      (congrArg BitVec.toNat (hstored (k := 1) (by decide))).trans htens,
      (congrArg BitVec.toNat (hstored (k := 2) (by decide))).trans hones,
      sameBytesOutside_effect (.ldBVx x) s, memWf_effect hwf hrun⟩

/-- Settles O48. The registers are the bytes stored from I on; either fault comes before the first of them. -/
theorem blockStoreWritesRegisters : Obligations.BlockStoreWritesRegisters := by
  unfold Obligations.BlockStoreWritesRegisters
  intro s x hwf
  refine ⟨fun m => ?words, fun hin hfont => ?store, fun hout => ?outOfRange, fun hfont hbase => ?readOnly⟩
  case words => exact .of_formatXK_fixed rfl rfl (by cases m <;> rfl)
  case outOfRange => exact exec_of_blocked (blocked_eq_some_iff.2 ⟨rfl, .inr (.inr (.inl ⟨x, rfl, hout⟩))⟩)
  case readOnly => exact exec_of_blocked (blocked_eq_some_iff.2 ⟨rfl, hfont, hbase, x, .inr rfl⟩)
  case store =>
    have hrun := blocked_ldMemVx_of_allowed hin hfont
    exact ⟨_, exec_of_not_blocked hrun, effect_ldMemVx_frame s x, fun j => readByte_effect_ldMemVx hwf hin,
      s.length_regsUpTo x ▸ sameBytesOutside_effect (.ldMemVx x) s, i_effect_ldMemVx_of_unchanged x,
      toNat_i_effect_ldMemVx_of_advance x, memWf_effect hwf hrun⟩

/-- Settles O50. The word fetched next is made of the first two bytes stored. -/
theorem storeIsSeenByTheNextFetch : Obligations.StoreIsSeenByTheNextFetch := by
  unfold Obligations.StoreIsSeenByTheNextFetch
  intro s t x hwf hs hdec hx hi h ht
  obtain ⟨i, hdec', hrun, rfl⟩ := completed_of_fault_eq_none h ht
  obtain rfl := hdec.unique hdec'
  have hin : s.i.toNat + x.toNat ≤ 0xFFF := inRange_of_ldMemVx_not_blocked hrun
  have hpc : (s.completed (.ldMemVx x)).pc = s.pc + 2#16 := by
    simp [State.completed, effect]
  have hpcNat : (s.pc + 2#16).toNat = s.i.toNat := by
    rw [BitVec.toNat_add, BitVec.toNat_ofNat]
    omega
  have hstored {j : Nibble} (hj : j.toNat ≤ x.toNat) :
      (s.completed (.ldMemVx x)).readByte (s.i.toNat + j.toNat) = s.reg j :=
    readByte_effect_ldMemVx (s := s.advance) hwf hin hj
  have hfirst := hstored (j := 0) (Nat.zero_le _)
  have hsecond := hstored (j := 1) hx
  refine ⟨hpc, State.fetch_eq_some.2 ?_⟩
  rw [hpc, hpcNat]
  exact ⟨by omega, by rw [← hfirst, ← hsecond]; rfl⟩

end Sys2Proof.Machine
end

section
/-! PROOFS. The writers of each unit (10_state.md R22, R23, R25, R31, R34, R36, R38; 20_memory.md R58; 40_dispatch.md R93): an effect leaves a unit alone or is one of its writers'. -/

namespace Sys2Proof.Machine

/-! What an effect leaves alone. -/

theorem fb_effect_eq_or_writer (i : Instr) (s : State) :
    (effect i s).fb = s.fb ∨ (∃ x, i = .cls x) ∨ ∃ x y n, i = .drw x y n := by
  cases i
  case cls x => exact .inr (.inl ⟨x, rfl⟩)
  case drw x y n => exact .inr (.inr ⟨x, y, n, rfl⟩)
  all_goals exact .inl (by simp [effect])

theorem stack_effect_eq_or_writer (i : Instr) (s : State) :
    (effect i s).stack = s.stack ∨ (∃ nnn, i = .call nnn) ∨ ∃ x, i = .ret x := by
  cases i
  case call nnn => exact .inr (.inl ⟨nnn, rfl⟩)
  case ret x => exact .inr (.inr ⟨x, rfl⟩)
  all_goals exact .inl (by simp [effect])

theorem sameBytes_effect_or_writer (i : Instr) (s : State) :
    SameBytes s (effect i s) ∨ (∃ x, i = .ldBVx x) ∨ ∃ x, i = .ldMemVx x := by
  cases i
  case ldBVx x => exact .inr (.inl ⟨x, rfl⟩)
  case ldMemVx x => exact .inr (.inr ⟨x, rfl⟩)
  all_goals exact .inl (sameBytes_effect rfl)

/-- The three instructions that sample the keys (R38). -/
def SamplesKeys (i : Instr) : Prop := ∃ x, i = .skp x ∨ i = .sknp x ∨ i = .ldVxK x

/-- The latch and the samples to come are as before, or the instruction put its sample in the latch (R170). -/
theorem keys_effect_eq_or_sample (i : Instr) (s : State) :
    ((effect i s).keyAsserted = s.keyAsserted ∧ (effect i s).keyCode = s.keyCode ∧
      (effect i s).keyAnswers = s.keyAnswers) ∨
    SamplesKeys i ∧ (effect i s).keyAsserted = s.nextKey.isSome ∧ (effect i s).keyCode = s.nextKey.getD 0#4 := by
  cases i
  case skp x => exact .inr ⟨⟨x, .inl rfl⟩, rfl, rfl⟩
  case sknp x => exact .inr ⟨⟨x, .inr (.inl rfl)⟩, rfl, rfl⟩
  case ldVxK x => exact .inr ⟨⟨x, .inr (.inr rfl)⟩, rfl, rfl⟩
  all_goals exact .inl (by simp [effect])

theorem dt_effect_eq_or_writer (i : Instr) (s : State) : (effect i s).dt = s.dt ∨ ∃ x, i = .ldDtVx x := by
  cases i
  case ldDtVx x => exact .inr ⟨x, rfl⟩
  all_goals exact .inl (by simp [effect])

theorem st_effect_eq_or_writer (i : Instr) (s : State) : (effect i s).st = s.st ∨ ∃ x, i = .ldStVx x := by
  cases i
  case ldStVx x => exact .inr ⟨x, rfl⟩
  all_goals exact .inl (by simp [effect])

/-- The block transfers write I under LDST_I = advance only (R194). -/
theorem i_effect_eq_or_writer (i : Instr) (s : State) :
    (effect i s).i = s.i ∨ (∃ nnn, i = .ldI nnn) ∨ (∃ x, i = .addIVx x ∨ i = .ldFVx x) ∨
      s.params.ldstI = .advance ∧ ∃ x, i = .ldMemVx x ∨ i = .ldVxMem x := by
  cases i
  case ldI nnn => exact .inr (.inl ⟨nnn, rfl⟩)
  case addIVx x => exact .inr (.inr (.inl ⟨x, .inl rfl⟩))
  case ldFVx x => exact .inr (.inr (.inl ⟨x, .inr rfl⟩))
  case ldMemVx x =>
    cases hldst : s.params.ldstI with
    | unchanged => exact .inl (i_effect_ldMemVx_of_unchanged x hldst)
    | advance => exact .inr (.inr (.inr ⟨rfl, x, .inl rfl⟩))
  case ldVxMem x =>
    cases hldst : s.params.ldstI with
    | unchanged => exact .inl (i_effect_ldVxMem_of_unchanged x hldst)
    | advance => exact .inr (.inr (.inr ⟨rfl, x, .inr rfl⟩))
  all_goals exact .inl (by simp [effect])

theorem randomAnswers_effect_eq_or_writer (i : Instr) (s : State) :
    (effect i s).randomAnswers = s.randomAnswers ∨ ∃ x kk, i = .rnd x kk := by
  cases i
  case rnd x kk => exact .inr ⟨x, kk, rfl⟩
  all_goals exact .inl (by simp [effect])

theorem draws_effect_eq_or_writer (i : Instr) (s : State) :
    (effect i s).draws = s.draws ∨ ∃ x, i = .skp x ∨ i = .sknp x ∨ i = .ldVxK x ∨ ∃ kk, i = .rnd x kk := by
  cases i
  case skp x => exact .inr ⟨x, .inl rfl⟩
  case sknp x => exact .inr ⟨x, .inr (.inl rfl)⟩
  case ldVxK x => exact .inr ⟨x, .inr (.inr (.inl rfl))⟩
  case rnd x kk => exact .inr ⟨x, .inr (.inr (.inr ⟨kk, rfl⟩))⟩
  all_goals exact .inl (by simp [effect])

/-- Settles O22. A fault writes the record and PC, no unit named here; an effect writes its own units. -/
theorem unitsHaveOnlyTheirWriters : Obligations.UnitsHaveOnlyTheirWriters := by
  unfold Obligations.UnitsHaveOnlyTheirWriters
  intro i s t h
  obtain ⟨kind, addr, -, rfl⟩ | ⟨-, rfl⟩ := exec_cases h
  · exact ⟨absurd rfl, absurd rfl, absurd fun _ => rfl, Or.rec (absurd rfl) (absurd rfl), absurd rfl, absurd rfl,
      absurd rfl, absurd rfl, absurd rfl, absurd rfl, rfl⟩
  · have hkeys := keys_effect_eq_or_sample i s
    exact ⟨(fb_effect_eq_or_writer i s).resolve_left, (stack_effect_eq_or_writer i s).resolve_left,
      (sameBytes_effect_or_writer i s).resolve_left,
      fun hne => (hkeys.resolve_left fun ⟨hasserted, hcode, _⟩ => hne.elim (absurd hasserted) (absurd hcode)).1,
      (dt_effect_eq_or_writer i s).resolve_left, (st_effect_eq_or_writer i s).resolve_left,
      (i_effect_eq_or_writer i s).resolve_left,
      fun hne => (hkeys.resolve_left fun ⟨_, _, hanswers⟩ => hne hanswers).1,
      (randomAnswers_effect_eq_or_writer i s).resolve_left, (draws_effect_eq_or_writer i s).resolve_left,
      effect_params i s⟩

/-! Registers (R22, R23). -/

theorem State.eq_of_reg_setReg_ne {s : State} {x j : Nibble} {b : Byte} (h : (s.setReg x b).reg j ≠ s.reg j) :
    j = x :=
  not_imp_comm.1 (s.reg_setReg_ne b) h

theorem State.eq_or_eq_of_reg_writeResultAndFlag_ne {s : State} {x j : Nibble} {r : Byte} {f : Bool}
    (h : (s.writeResultAndFlag x r f).reg j ≠ s.reg j) : j = x ∨ j = vf := by
  rw [State.reg_writeResultAndFlag] at h
  grind

/-- Settles O23. A register that changes is the destination of the instruction's write, or VF beside it. -/
theorem registersHaveOnlyTheirWriters : Obligations.RegistersHaveOnlyTheirWriters := by
  unfold Obligations.RegistersHaveOnlyTheirWriters
  intro i s t j h hne
  obtain ⟨kind, addr, -, rfl⟩ | ⟨-, rfl⟩ := exec_cases h
  · exact absurd rfl hne
  · rw [State.setWaiting_reg] at hne
    cases i
    case ldImm x kk | addImm x kk | ldReg x y | orReg x y | andReg x y | xorReg x y | ldVxDt x =>
      obtain rfl := State.eq_of_reg_setReg_ne hne
      simp
    case rnd x kk =>
      obtain rfl := State.eq_of_reg_setReg_ne (s := s.drawRandom) hne
      simp
    case ldVxK x =>
      obtain rfl := State.eq_of_reg_setReg_ne (s := s.sampleKeys) hne
      simp
    case addReg x y | sub x y | shr x y | subn x y | shl x y =>
      obtain rfl | rfl := State.eq_or_eq_of_reg_writeResultAndFlag_ne hne <;> simp
    case drw x y n =>
      obtain rfl : j = vf := not_imp_comm.1 (s.reg_drawSprite_ne x y n) hne
      simp
    case ldVxMem x =>
      have hloaded : j.toNat ≤ x.toNat := by
        rw [reg_effect_ldVxMem] at hne
        by_contra hnot
        exact hne (if_neg hnot)
      simp [hloaded]
    all_goals exact absurd (by simp [effect]) hne

end Sys2Proof.Machine
end

section
/-! PROOFS. The fields no instruction reads: ST (10_state.md R34), `waiting` (R40) and the count of the frame's steps (log 9). An instruction run with other values in them does the same and carries them along. From it that the steps of a frame are the host's frame (40_dispatch.md R95). -/

namespace Sys2Proof.Machine

/-- `s` with other values in the three fields no instruction reads. -/
def State.withUnread (s : State) (b : Byte) (w : Bool) (n : Nat) : State :=
  { s with st := b, waiting := w, frameSteps := n }

/-- ST after an instruction that begins with `b` in it (R173). -/
def stAfter (i : Instr) (s : State) (b : Byte) : Byte :=
  match i with
  | .ldStVx x => s.reg x
  | _ => b

theorem st_effect (i : Instr) (s : State) : (effect i s).st = stAfter i s s.st := by
  cases i <;> simp [effect, stAfter]

theorem State.writeBytes_withUnread (s : State) (b : Byte) (w : Bool) (n a : Nat) (bs : List Byte) :
    (s.withUnread b w n).writeBytes a bs = (s.writeBytes a bs).withUnread b w n := by
  induction bs generalizing s a with
  | nil => rfl
  | cons c rest ih => exact ih (s.writeByte a c) (a + 1)

theorem State.setRegs_withUnread (s : State) (b : Byte) (w : Bool) (n j : Nat) (bs : List Byte) :
    (s.withUnread b w n).setRegs j bs = (s.setRegs j bs).withUnread b w n := by
  induction bs generalizing s j with
  | nil => rfl
  | cons c rest ih => exact ih (s.setReg (BitVec.ofNat 4 j) c) (j + 1)

theorem State.afterTransfer_withUnread (s : State) (b : Byte) (w : Bool) (n : Nat) (x : Nibble) :
    (s.withUnread b w n).afterTransfer x = (s.afterTransfer x).withUnread b w n := by
  unfold State.afterTransfer
  cases h : s.params.ldstI <;> simp only [State.withUnread, h]
  rfl

theorem State.writeResultAndFlag_withUnread (s : State) (b : Byte) (w : Bool) (n : Nat) (x : Nibble) (r : Byte)
    (f : Bool) : (s.withUnread b w n).writeResultAndFlag x r f = (s.writeResultAndFlag x r f).withUnread b w n := by
  unfold State.writeResultAndFlag
  cases h : s.params.vfOrder <;> simp only [State.withUnread, h] <;> rfl

theorem effect_withUnread (i : Instr) (s : State) (b : Byte) (w : Bool) (n : Nat) :
    effect i (s.withUnread b w n) = (effect i s).withUnread (stAfter i s b) w n := by
  cases i
  case addReg x y | sub x y | shr x y | subn x y | shl x y => exact s.writeResultAndFlag_withUnread b w n x _ _
  case ldBVx x => exact s.writeBytes_withUnread b w n _ _
  case ldMemVx x =>
    exact (congrArg (·.afterTransfer x) (s.writeBytes_withUnread b w n _ _)).trans
      (State.afterTransfer_withUnread _ b w n x)
  case ldVxMem x =>
    exact (congrArg (·.afterTransfer x) (s.setRegs_withUnread b w n _ _)).trans
      (State.afterTransfer_withUnread _ b w n x)
  all_goals rfl

theorem blocked_withUnread (i : Instr) (s : State) (b : Byte) (w : Bool) (n : Nat) :
    blocked i (s.withUnread b w n) = blocked i s := by
  cases i <;> rfl

theorem waits_withUnread (i : Instr) (s : State) (b : Byte) (w : Bool) (n : Nat) :
    waits i (s.withUnread b w n) = waits i s := by
  cases i <;> rfl

/-- Settles O24. A fault leaves ST as it was; an effect carries it along, or writes it. -/
theorem soundTimerIsReadByNoInstruction : Obligations.SoundTimerIsReadByNoInstruction := by
  unfold Obligations.SoundTimerIsReadByNoInstruction
  intro i s t b h
  have hother : ({ s with st := b } : State) = s.withUnread b s.waiting s.frameSteps := rfl
  rw [hother]
  obtain ⟨kind, addr, hblocked, rfl⟩ | ⟨hrun, rfl⟩ := exec_cases h
  · exact ⟨_, exec_of_blocked ((blocked_withUnread ..).trans hblocked), rfl⟩
  · refine ⟨_, exec_of_not_blocked ((blocked_withUnread ..).trans hrun), ?_⟩
    rw [effect_withUnread, waits_withUnread]
    have hsteps : (effect i s).frameSteps = s.frameSteps := effect_frameSteps i s
    rw [← hsteps]
    rfl

/-! `execute_one`. -/

theorem raisesRecord_withUnread_iff {s : State} {r : FaultRecord} (b : Byte) (w : Bool) (n : Nat) :
    RaisesRecord (s.withUnread b w n) r ↔ RaisesRecord s r := by
  have hblocked (i : Instr) : blocked i (s.withUnread b w n).advance = blocked i s.advance :=
    blocked_withUnread i s.advance b w n
  unfold RaisesRecord
  simp only [hblocked]
  rfl

/-- Only ST is carried through a completion: `waiting` is written by it. -/
theorem completed_withUnread (s : State) (i : Instr) (w : Bool) (n : Nat) :
    (s.withUnread s.st w n).completed i = (s.completed i).withUnread (s.completed i).st (s.completed i).waiting n := by
  have heffect := effect_withUnread i s.advance s.st w n
  rw [← State.advance_st s, ← st_effect i s.advance] at heffect
  have hwaits := waits_withUnread i s s.st w n
  unfold State.completed
  rw [hwaits]
  exact congrArg (·.setWaiting (waits i s)) heffect

theorem executeOne_withUnread_of_fault {s t : State} {r : FaultRecord} (w : Bool) (n : Nat) (h : executeOne s = .next t)
    (hr : t.fault = some r) : executeOne (s.withUnread s.st w n) = .next (t.withUnread t.st w n) := by
  obtain ⟨hs, -⟩ := executeOne_cases h
  obtain ⟨rfl, -⟩ := executeOne_eq_halt_of_fault h hr
  exact executeOne_of_raises hs ((raisesRecord_withUnread_iff _ _ _).2 (raisesRecord_of_fault h hr))

theorem executeOne_withUnread_of_running {s t : State} (w : Bool) (n : Nat) (h : executeOne s = .next t)
    (ht : t.fault = none) : executeOne (s.withUnread s.st w n) = .next (t.withUnread t.st t.waiting n) := by
  obtain ⟨hs, -⟩ := executeOne_cases h
  obtain ⟨i, hdec, hrun, rfl⟩ := completed_of_fault_eq_none h ht
  rw [← completed_withUnread]
  exact executeOne_of_not_blocked hs hdec ((blocked_withUnread i s.advance s.st w n).trans hrun)

theorem executeOne_frameSteps {s t : State} (h : executeOne s = .next t) : t.frameSteps = s.frameSteps := by
  obtain ⟨-, ⟨r, -, rfl⟩ | ⟨i, -, -, rfl⟩⟩ := executeOne_halts_or_completes h
  · rfl
  · exact effect_frameSteps i s.advance

theorem executeOne_params {s t : State} (h : executeOne s = .next t) : t.params = s.params := by
  obtain ⟨-, ⟨r, -, rfl⟩ | ⟨i, -, -, rfl⟩⟩ := executeOne_halts_or_completes h
  · rfl
  · exact effect_params i s.advance

/-- Settles O25. A completion writes `waiting`; a fault carries it along. -/
theorem waitingIsReadByNoInstruction : Obligations.WaitingIsReadByNoInstruction := by
  unfold Obligations.WaitingIsReadByNoInstruction
  intro s t b h
  have hsteps : t.frameSteps = s.frameSteps := executeOne_frameSteps h
  obtain ht | ⟨r, hr⟩ := Option.eq_none_or_eq_some t.fault
  · have hself : t.withUnread t.st t.waiting s.frameSteps = t := by rw [← hsteps]; rfl
    have hrun := executeOne_withUnread_of_running b s.frameSteps h ht
    rw [hself] at hrun
    exact ⟨t, hrun, rfl, fun _ => rfl⟩
  · have hself : t.withUnread t.st b s.frameSteps = { t with waiting := b } := by rw [← hsteps]; rfl
    have hfault := executeOne_withUnread_of_fault b s.frameSteps h hr
    rw [hself] at hfault
    exact ⟨_, hfault, rfl, fun ht => by simp [ht] at hr⟩

/-! The steps of a frame (R95). -/

/-- The state of the machine's run: the state of the host's batch, with the count of the steps done. -/
def State.counted (s : State) (n : Nat) : State := { s with frameSteps := n }

theorem executeOne_counted {s t : State} (n : Nat) (h : executeOne s = .next t) :
    executeOne (s.counted n) = .next (t.counted n) := by
  cases ht : t.fault with
  | none => exact executeOne_withUnread_of_running s.waiting n h ht
  | some r =>
    obtain ⟨rfl, -⟩ := executeOne_eq_halt_of_fault h ht
    exact executeOne_withUnread_of_fault s.waiting n h ht

/-- A step inside a frame is one of the batch, counted. -/
theorem step_counted_inside {s t : State} {n : Nat} (h : executeOne s = .next t) (ht : t.fault = none)
    (hn : n + 1 < s.params.ipf) : step (s.counted n) = .next (t.counted (n + 1)) := by
  rw [← executeOne_params h] at hn
  rw [step_of_executeOne (executeOne_counted n h), afterStep_inside (t := t.counted n) ht hn]
  rfl

theorem step_counted_last {s t : State} {n : Nat} (h : executeOne s = .next t) (ht : t.fault = none)
    (hn : n + 1 = s.params.ipf) : step (s.counted n) = .next (t.timerTick.counted 0) := by
  rw [← executeOne_params h] at hn
  rw [step_of_executeOne (executeOne_counted n h), afterStep_last (t := t.counted n) ht hn.ge]
  rfl

theorem step_counted_of_fault {s t : State} {r : FaultRecord} (n : Nat) (h : executeOne s = .next t)
    (hr : t.fault = some r) : step (s.counted n) = .next (t.counted n) := by
  rw [step_of_executeOne (executeOne_counted n h), afterStep_of_fault (t := t.counted n) hr]

/-- What is left of a batch that completes is a run that ends with the tick. -/
theorem run_of_completes {k n : Nat} {s u : State} (h : CompletesSteps (k + 1) s u) (hn : n + (k + 1) = s.params.ipf) :
    Host.Core.run Sys2Proof.core (k + 1) (s.counted n) = .next (u.timerTick.counted 0) := by
  induction k generalizing s n with
  | zero =>
    obtain ⟨-, v, hv, hvf, rfl⟩ := h
    rw [run_succ_of_next 0 (step_counted_last hv hvf hn)]
    rfl
  | succ k ih =>
    obtain ⟨-, v, hv, hrest⟩ := h
    rw [run_succ_of_next (k + 1) (step_counted_inside hv hrest.source_fault (by omega))]
    exact ih hrest (by rw [executeOne_params hv]; omega)

/-- What is left of a batch that a fault aborts is a run that ends with the fault. -/
theorem run_of_aborts {k n : Nat} {s u t : State} {r : FaultRecord} (h : CompletesSteps k s u)
    (hu : executeOne u = .next t) (hr : t.fault = some r) (hn : n + k < s.params.ipf) :
    Host.Core.run Sys2Proof.core (k + 1) (s.counted n) = .next (t.counted (n + k)) := by
  induction k generalizing s n with
  | zero =>
    obtain ⟨-, rfl⟩ := h
    rw [run_succ_of_next 0 (step_counted_of_fault n hu hr)]
    rfl
  | succ k ih =>
    obtain ⟨-, v, hv, hrest⟩ := h
    rw [run_succ_of_next (k + 1) (step_counted_inside hv hrest.source_fault (by omega)),
      ih hrest (by rw [executeOne_params hv]; omega), Nat.succ_add_eq_add_succ]

theorem CompletesSteps.frameSteps_eq {k : Nat} {s u : State} (h : CompletesSteps k s u) :
    u.frameSteps = s.frameSteps := by
  induction k generalizing s with
  | zero =>
    obtain ⟨-, rfl⟩ := h
    rfl
  | succ k ih =>
    obtain ⟨-, v, hv, hrest⟩ := h
    exact (ih hrest).trans (executeOne_frameSteps hv)

/-- Settles O14. The run and the batch go through the same states but for the count of the steps done. -/
theorem stepsOfAFrameAreTheFrame : Obligations.StepsOfAFrameAreTheFrame := by
  unfold Obligations.StepsOfAFrameAreTheFrame
  intro s t hbegin hipf
  have hcounted : s.counted 0 = s := by rw [← hbegin]; rfl
  refine ⟨fun h => ?_, fun r hs h => ?_⟩
  · obtain ⟨u, hu, rfl⟩ := (frameRunsBatchThenTicks s t).1.1 h
    have hzero : u.timerTick.frameSteps = 0 := hu.frameSteps_eq.trans hbegin
    have hself : u.timerTick.counted 0 = u.timerTick := by rw [← hzero]; rfl
    obtain ⟨k, hk⟩ := Nat.exists_eq_succ_of_ne_zero (Nat.ne_of_gt hipf)
    rw [hk] at hu ⊢
    have hrun := run_of_completes (n := 0) hu (by omega)
    rw [hcounted, hself] at hrun
    exact ⟨hrun, hzero⟩
  · obtain ⟨hfault, -⟩ | ⟨k, u, hk, hu, ht, hr⟩ := ((frameRunsBatchThenTicks s t).2 r).1 h
    · cases hs.symm.trans hfault
    · refine ⟨k, hk, ?_⟩
      have hrun := run_of_aborts (n := 0) hu ht hr (by omega)
      rwa [hcounted, Nat.zero_add] at hrun

end Sys2Proof.Machine
end

section
/-! PROOFS. Two steps in a row: a CALL and the RET at its target (42_control_flow.md R139), and an LD Vx, K that waits and is fetched again (10_state.md R40, 44_timer_key.md R174). -/

namespace Sys2Proof.Machine

/-- Settles O38. The RET pops the entry the CALL pushed, the post-fetch PC. -/
theorem callThenReturnRestoresPcAndStack : Obligations.CallThenReturnRestoresPcAndStack := by
  unfold Obligations.CallThenReturnRestoresPcAndStack
  intro s t u nnn x hs hcall hroom ht hret hu
  have hcalled := executeOne_of_not_blocked hs hcall (blocked_call_of_room (s := s.advance) nnn hroom)
  obtain rfl := Host.Outcome.next.inj (ht.symm.trans hcalled)
  have htf := fault_completed hs (.call nnn)
  have hstack : (s.completed (.call nnn)).stack = (s.pc + 2#16) :: s.stack := rfl
  have hreturned := executeOne_of_not_blocked htf hret
    (blocked_ret_of_ne_nil x (hstack ▸ List.cons_ne_nil (s.pc + 2#16) s.stack))
  obtain rfl := Host.Outcome.next.inj (hu.symm.trans hreturned)
  exact ⟨rfl, rfl, fault_completed htf (.ret x)⟩

theorem decodes_congr {s t : State} {i : Instr} (hpc : t.pc = s.pc) (hparams : t.params = s.params)
    (hbytes : SameBytes s t) : Decodes t i ↔ Decodes s i := by
  unfold Decodes
  rw [hpc, hparams, hbytes, hbytes]

/-- An instruction that completes and waits is an LD Vx, K, which has put PC back where it was fetched. -/
theorem waiting_completed {s : State} {i : Instr} (h : (s.completed i).waiting = true) :
    (s.completed i).pc = s.pc ∧ ∃ x, i = .ldVxK x := by
  obtain ⟨⟨x, rfl⟩, hnone⟩ := (waits_iff i s).1 h
  refine ⟨?_, x, rfl⟩
  have hback : s.pc + 2#16 - 2#16 = s.pc := BitVec.add_sub_cancel ..
  have hnokey : s.advance.sampleKeys.keyAsserted = false := hnone
  simp only [State.completed, effect, State.setWaiting_pc, State.takeKeyOrRewind_pc, hnokey, Bool.false_eq_true,
    if_false]
  exact hback

/-- Settles O21. A fault leaves `waiting`, PC and memory as they were; a completed LD Vx, K that waits is fetched again. -/
theorem waitingCoreRetriesKeyRead : Obligations.WaitingCoreRetriesKeyRead := by
  unfold Obligations.WaitingCoreRetriesKeyRead
  intro s u hwaits hstep
  obtain ⟨t, ht, rfl⟩ := step_eq_next.1 hstep
  have hretry : t.waiting = true → t.pc = s.pc ∧ ∃ x, Decodes s (.ldVxK x) ∧ Decodes t (.ldVxK x) := by
    intro hw
    obtain ⟨-, ⟨r, -, rfl⟩ | ⟨i, hdec, -, rfl⟩⟩ := executeOne_halts_or_completes ht
    · obtain ⟨x, hx⟩ := hwaits hw
      exact ⟨rfl, x, hx, hx⟩
    · obtain ⟨hpc, x, rfl⟩ := waiting_completed hw
      exact ⟨hpc, x, hdec, (decodes_congr hpc (effect_params _ s.advance) fun _ => rfl).2 hdec⟩
  refine ⟨fun hw => ?_, hretry⟩
  obtain ⟨-, x, -, hx⟩ := hretry hw
  exact ⟨x, hx⟩

end Sys2Proof.Machine
end

section
/-! PROOFS. The host's answers (40_dispatch.md R93): the random byte of RND (41_arith_logic.md R114) and the key sample of LD Vx, K, SKP and SKNP (44_timer_key.md R170, R174–R176). -/

namespace Sys2Proof.Machine

/-- Settles O33. The byte drawn is the next answer, or the free value when there is none, and is masked bit by bit. -/
theorem randomIsAMaskedDraw : Obligations.RandomIsAMaskedDraw := by
  unfold Obligations.RandomIsAMaskedDraw
  intro s x kk
  refine ⟨fun m => ?words, ⟨_, exec_of_not_blocked rfl, rfl, fun _ => rfl, ?masked, ?others, ?given, ?free⟩,
    fun r rest => ?any⟩
  case words => exact .of_formatXK rfl rfl (by cases m <;> rfl)
  case masked =>
    intro k _
    rw [State.setWaiting_reg, effect, State.reg_setReg_self, BitVec.getLsbD_and]
  case others => exact fun j => s.drawRandom.reg_setReg_ne _
  case given => exact fun r rest h => ⟨by simp [State.nextRandom, h], by simp [effect, h]⟩
  case free => exact fun h => ⟨by simp [State.nextRandom, h], by simp [effect, h]⟩
  case any => exact ⟨_, exec_of_not_blocked rfl, State.reg_setReg_self _ x _, rfl⟩

theorem takesOneKeySample_of_samplesKeys {i : Instr} {s : State} (h : SamplesKeys i) (w : Bool) :
    TakesOneKeySample s ((effect i s).setWaiting w) := by
  obtain ⟨x, rfl | rfl | rfl⟩ := h <;> exact .of_fields rfl rfl rfl

/-! LD Vx, K by its sample (R174). -/

theorem State.setReg_reg_self (s : State) (x : Nibble) : s.setReg x (s.reg x) = s := by
  simp [State.setReg, State.reg]

/-- With a key its code goes to Vx, and PC stays. -/
theorem effect_ldVxK_of_key {s : State} {k : Nibble} (x : Nibble) (hk : s.nextKey = some k) :
    effect (.ldVxK x) s = s.sampleKeys.setReg x (k.setWidth 8) := by
  simp only [effect, State.takeKeyOrRewind, State.sampleKeys_keyAsserted, State.sampleKeys_keyCode, hk,
    Option.isSome_some, Option.getD_some, if_true]
  rfl

/-- With no key Vx is written with its own value, and PC goes back. -/
theorem effect_ldVxK_of_no_key {s : State} (x : Nibble) (hnone : s.nextKey = none) :
    effect (.ldVxK x) s = s.sampleKeys.setPc (s.pc - 2#16) := by
  simp only [effect, State.takeKeyOrRewind, State.sampleKeys_keyAsserted, hnone, Option.isSome_none,
    Bool.false_eq_true, if_false, State.setReg_reg_self, State.sampleKeys_pc]

theorem sampleKeys_eq_of_nextKey {s : State} {o : Option Nibble} (h : s.nextKey = o) :
    s.sampleKeys =
      { s with
        keyAsserted := o.isSome
        keyCode := o.getD 0#4
        keyAnswers := s.keyAnswers.tail
        draws := s.draws + 1 } := by
  rw [State.sampleKeys, h]

theorem waits_ldVxK_of_nextKey {s : State} {o : Option Nibble} (x : Nibble) (h : s.nextKey = o) :
    waits (.ldVxK x) s = o.isNone :=
  congrArg Option.isNone h

/-- Settles O44. The sample taken decides what is written, and any answer may be the next. -/
theorem keyReadStoresKeyOrRetries : Obligations.KeyReadStoresKeyOrRetries := by
  unfold Obligations.KeyReadStoresKeyOrRetries
  intro s x
  have hsample (w : Bool) := takesOneKeySample_of_samplesKeys (s := s) ⟨x, .inr (.inr rfl)⟩ w
  refine ⟨fun m => ?words, fun k hk => ?key, fun hnone => ?retry, fun a rest => rfl⟩
  case words => exact .of_formatXK_fixed rfl rfl (by cases m <;> rfl)
  case key =>
    have heffect := effect_ldVxK_of_key x hk
    refine ⟨_, exec_of_not_blocked rfl, ?_, fun _ => rfl, ?_, fun j hj => ?_, hsample _⟩
    · rw [heffect, waits_ldVxK_of_nextKey x hk, sampleKeys_eq_of_nextKey hk]
      rfl
    · rw [State.setWaiting_reg, heffect, State.reg_setReg_self, BitVec.toNat_setWidth_of_le (by decide)]
    · rw [State.setWaiting_reg, heffect, State.reg_setReg_ne _ _ hj, State.sampleKeys_reg]
  case retry =>
    refine ⟨_, exec_of_not_blocked rfl, ?_, fun _ => rfl, hsample _⟩
    rw [effect_ldVxK_of_no_key x hnone, waits_ldVxK_of_nextKey x hnone, sampleKeys_eq_of_nextKey hnone]
    rfl

/-! SKP and SKNP by their sample (R175, R176). -/

theorem keyMatches_sampleKeys_of_key {s : State} {k : Nibble} (b : Byte) (hk : s.nextKey = some k) :
    s.sampleKeys.keyMatches b = true ↔ k.toNat = b.toNat := by
  simp [State.keyMatches_iff, hk]

theorem keyMatches_sampleKeys_of_no_key {s : State} (b : Byte) (hnone : s.nextKey = none) :
    s.sampleKeys.keyMatches b = false := by
  simp [State.keyMatches, hnone]

/-- Settles O45. The condition is the one of the sample just taken; SKNP skips on its negation. -/
theorem keySkipsCompareWholeRegister : Obligations.KeySkipsCompareWholeRegister := by
  unfold Obligations.KeySkipsCompareWholeRegister
  intro s x
  have hkey (k : Nibble) (hk : s.nextKey = some k) := keyMatches_sampleKeys_of_key (s.reg x) hk
  have hnokey (hnone : s.nextKey = none) := keyMatches_sampleKeys_of_no_key (s.reg x) hnone
  have hlatch (o : Option Nibble) (h : s.nextKey = o) :
      s.sampleKeys.keyAsserted = o.isSome ∧ s.sampleKeys.keyCode = o.getD 0#4 := h ▸ ⟨rfl, rfl⟩
  refine ⟨fun m => ?words,
    ⟨_, exec_of_not_blocked rfl, rfl, fun _ => rfl, takesOneKeySample_of_samplesKeys ⟨x, .inl rfl⟩ _,
      fun k hk => ?skpKey, fun hnone => ?skpNone⟩,
    ⟨_, exec_of_not_blocked rfl, rfl, fun _ => rfl, takesOneKeySample_of_samplesKeys ⟨x, .inr (.inl rfl)⟩ _,
      fun k hk => ?sknpKey, fun hnone => ?sknpNone⟩⟩
  case words =>
    refine ⟨.of_formatXK_fixed rfl rfl ?_, .of_formatXK_fixed rfl rfl ?_⟩ <;> cases m <;> rfl
  case skpKey =>
    exact ⟨(hlatch _ hk).1, (hlatch _ hk).2, s.sampleKeys.pc_skipIf_of_iff (hkey k hk)⟩
  case sknpKey =>
    exact ⟨(hlatch _ hk).1, (hlatch _ hk).2, s.sampleKeys.pc_skipIf_not_of_iff (hkey k hk)⟩
  case skpNone =>
    exact ⟨(hlatch _ hnone).1, (hlatch _ hnone).2, by simp [effect, hnokey hnone]⟩
  case sknpNone =>
    exact ⟨(hlatch _ hnone).1, (hlatch _ hnone).2, by simp [effect, hnokey hnone]⟩

end Sys2Proof.Machine
end

section
/-! PROOFS. The invariant (10_state.md R29, R31, R42; 60_exceptions.md R211): each part of `State.inv` through a fault, through an instruction that completes and through what a frame does after it; and at construction (70_reset_and_hazards.md R250). -/

namespace Sys2Proof.Machine

theorem State.inv_iff {s : State} :
    s.inv = true ↔ s.params.legal = true ∧ s.memWf = true ∧ s.pc.toNat ≤ 0x10FE ∧ s.stackReachable = true ∧
      s.latchConsistent = true ∧ s.recordConsistent = true ∧ s.frameSteps < s.params.ipf := by
  simp [State.inv, State.pcReachable, and_assoc]

/-- An address a CALL can push, the one after an instruction that was fetched (R42). -/
def ReachableEntry (w : Word) : Prop := 2 ≤ w.toNat ∧ w.toNat ≤ 0x1000

theorem State.stackReachable_iff {s : State} :
    s.stackReachable = true ↔ s.sp ≤ s.params.stackDepth ∧ ∀ w ∈ s.stack, ReachableEntry w := by
  simp [State.stackReachable, ReachableEntry]

theorem State.latchConsistent_iff {s : State} :
    s.latchConsistent = true ↔ (s.keyAsserted = false → s.keyCode = 0#4) := by
  cases h : s.keyAsserted <;> simp [State.latchConsistent, h]

theorem State.recordConsistent_of_none {s : State} (h : s.fault = none) : s.recordConsistent = true := by
  simp [State.recordConsistent, h]

theorem ipf_pos_of_legal {p : Params} (h : p.legal = true) : 0 < p.ipf := by
  simp only [Params.legal, Bool.and_eq_true, decide_eq_true_eq] at h
  exact h.2

/-- The fetch is what bounds PC: the instruction's word lies in memory, so the post-fetch PC is at most 0x1000. -/
theorem reachableEntry_pc_advance {s : State} {i : Instr} (h : Decodes s i) : ReachableEntry s.advance.pc := by
  have hpc : s.pc.toNat + 1 ≤ 0xFFF := h.1
  simp only [ReachableEntry, State.advance_pc, BitVec.toNat_add, BitVec.toNat_ofNat]
  omega

/-! A fault. -/

theorem recordConsistent_halt {s : State} {r : FaultRecord} (h : RaisesRecord s r) :
    (s.halt r).recordConsistent = true := by
  obtain ⟨-, rfl⟩ | ⟨w, -, -, rfl⟩ | ⟨i, kind, addr, -, hblocked, rfl⟩ := h
  · simp [State.recordConsistent, State.fetchFaultRecord]
  · simp [State.recordConsistent, State.illegalRecord]
  · obtain ⟨rfl, -⟩ := blocked_eq_some_iff.1 hblocked
    cases kind <;> simp [State.recordConsistent, faultAddr]

/-- A fault changes the record alone. -/
theorem inv_halt {s : State} {r : FaultRecord} (hinv : s.inv = true) (h : RaisesRecord s r) :
    (s.halt r).inv = true := by
  obtain ⟨hlegal, hmem, hpc, hstack, hlatch, -, hsteps⟩ := State.inv_iff.1 hinv
  exact State.inv_iff.2 ⟨hlegal, hmem, hpc, hstack, hlatch, recordConsistent_halt h, hsteps⟩

/-! An instruction that completes, from the state after its fetch. -/

/-- PC is one of those around the post-fetch PC, an address of 12 bits, one popped from the stack, or the sum of JP V0, at most 0xFFF + 0xFF (R27). -/
theorem pc_effect_le {i : Instr} {s : State} (hs : s.fault = none) (hpc : ReachableEntry s.pc)
    (hstack : ∀ w ∈ s.stack, ReachableEntry w) (hrun : blocked i s = none) : (effect i s).pc.toNat ≤ 0x10FE := by
  obtain ⟨hlow, hhigh⟩ := hpc
  have hskip : (s.pc + 2#16).toNat ≤ 0x10FE := by
    rw [BitVec.toNat_add, BitVec.toNat_ofNat]
    omega
  have hback : (s.pc - 2#16).toNat ≤ 0x10FE := by
    rw [BitVec.toNat_sub, BitVec.toNat_ofNat]
    omega
  have hstated :=
    (eachInstructionLeavesThePcStated i s _ hs (exec_of_not_blocked hrun)).2 ((effect_fault i s).trans hs)
  simp only [State.setWaiting_pc] at hstated
  cases i
  case jp nnn =>
    rw [hstated]
    omega
  case call nnn =>
    rw [hstated.1]
    omega
  case jpV0 nnn =>
    rw [hstated]
    omega
  case ret x =>
    have hpopped : (effect (.ret x) s).pc ∈ s.stack := List.mem_reverse.1 (List.mem_of_getElem? hstated)
    exact (hstack _ hpopped).2.trans (by decide)
  case seImm x kk | sneImm x kk | seReg x y n | sneReg x y n | skp x | sknp x | ldVxK x =>
    rw [hstated]
    split_ifs <;> omega
  all_goals
    rw [hstated]
    omega

/-- Only CALL and RET write the stack: one pushes below capacity, the other pops. -/
theorem stackReachable_effect {i : Instr} {s : State} (hpc : ReachableEntry s.pc) (hstack : s.stackReachable = true)
    (hrun : blocked i s = none) : (effect i s).stackReachable = true := by
  rw [State.stackReachable_iff] at hstack ⊢
  rw [effect_params]
  obtain ⟨hsp, hentries⟩ := hstack
  obtain hsame | ⟨nnn, rfl⟩ | ⟨x, rfl⟩ := stack_effect_eq_or_writer i s
  · rw [State.sp, hsame]
    exact ⟨hsp, hentries⟩
  · have hroom : s.sp < s.params.stackDepth := by
      by_contra hfull
      rw [blocked_call_of_full nnn hfull] at hrun
      cases hrun
    exact ⟨hroom, List.forall_mem_cons.2 ⟨hpc, hentries⟩⟩
  · have hpop : (effect (.ret x) s).sp ≤ s.sp := s.stack.length_tail.trans_le (Nat.sub_le _ 1)
    exact ⟨hpop.trans hsp, fun w hw => hentries w (List.mem_of_mem_tail hw)⟩

/-- A sample without a key leaves code 0 in the latch (R170). -/
theorem latchConsistent_effect {s : State} (i : Instr) (h : s.latchConsistent = true) :
    (effect i s).latchConsistent = true := by
  rw [State.latchConsistent_iff] at h ⊢
  obtain ⟨hasserted, hcode, -⟩ | ⟨-, hasserted, hcode⟩ := keys_effect_eq_or_sample i s
  · rwa [hasserted, hcode]
  · rw [hasserted, hcode]
    cases s.nextKey <;> simp

theorem inv_completed {s : State} {i : Instr} (hinv : s.inv = true) (hs : s.fault = none) (hdec : Decodes s i)
    (hrun : blocked i s.advance = none) : (s.completed i).inv = true := by
  obtain ⟨hlegal, hmem, -, hstack, hlatch, -, hsteps⟩ := State.inv_iff.1 hinv
  have hpc := reachableEntry_pc_advance hdec
  have hparams : (s.completed i).params = s.params := effect_params i s.advance
  have hcount : (s.completed i).frameSteps = s.frameSteps := effect_frameSteps i s.advance
  rw [State.inv_iff, hparams, hcount]
  exact ⟨hlegal, memWf_effect (s := s.advance) hmem hrun,
    pc_effect_le hs hpc (State.stackReachable_iff.1 hstack).2 hrun, stackReachable_effect hpc hstack hrun,
    latchConsistent_effect (s := s.advance) i hlatch, State.recordConsistent_of_none (fault_completed hs i), hsteps⟩

/-! What a frame does after it (log 9). -/

theorem frameSteps_afterStep_lt {t : State} (hlegal : t.params.legal = true) (h : t.frameSteps < t.params.ipf) :
    t.afterStep.frameSteps < t.params.ipf := by
  obtain hnone | ⟨r, hr⟩ := Option.eq_none_or_eq_some t.fault
  · obtain hinside | hlast := Nat.lt_or_ge (t.frameSteps + 1) t.params.ipf
    · rwa [afterStep_inside hnone hinside]
    · rw [afterStep_last hnone hlast]
      exact ipf_pos_of_legal hlegal
  · rwa [afterStep_of_fault hr]

/-- The tick and the count leave every other part alone. -/
theorem inv_afterStep {t : State} (h : t.inv = true) : t.afterStep.inv = true := by
  obtain ⟨hlegal, hmem, hpc, hstack, hlatch, hrecord, hsteps⟩ := State.inv_iff.1 h
  exact State.inv_iff.2
    ⟨hlegal, hmem, hpc, hstack, hlatch, hrecord, frameSteps_afterStep_lt hlegal hsteps⟩

/-- Settles O18. An `execute_one` halts or completes, and either keeps the invariant; so does the end of the step. -/
theorem stepKeepsInvariant : Obligations.StepKeepsInvariant := by
  unfold Obligations.StepKeepsInvariant
  intro s u hinv hstep
  obtain ⟨t, ht, rfl⟩ := step_eq_next.1 hstep
  obtain ⟨hs, ⟨r, hraises, rfl⟩ | ⟨i, hdec, hrun, rfl⟩⟩ := executeOne_halts_or_completes ht
  · exact inv_afterStep (inv_halt hinv hraises)
  · exact inv_afterStep (inv_completed hinv hs hdec hrun)

/-! Construction (R250). -/

theorem inv_writeBytes {s : State} {a : Nat} {bs : List Byte} (h : s.inv = true) (hfit : a + bs.length ≤ memorySize) :
    (s.writeBytes a bs).inv = true := by
  obtain ⟨hlegal, hmem, hpc, hstack, hlatch, hrecord, hsteps⟩ := State.inv_iff.1 h
  rw [State.inv_iff]
  simp only [State.writeBytes_params, State.writeBytes_pc, State.writeBytes_frameSteps, State.stackReachable,
    State.latchConsistent, State.recordConsistent, State.writeBytes_sp, State.writeBytes_stack,
    State.writeBytes_keyAsserted, State.writeBytes_keyCode, State.writeBytes_fault]
  exact ⟨hlegal, State.writeBytes_memWf hmem hfit, hpc, hstack, hlatch, hrecord, hsteps⟩

theorem inv_blankCore {p : Params} (h : p.legal = true) : (blankCore p).inv = true := by
  have hstart : p.startAddr ≤ 0xFFF := by
    simp only [Params.legal, Bool.and_eq_true, decide_eq_true_eq, memorySize] at h
    omega
  have hpc := toNat_pc_blankCore hstart
  exact State.inv_iff.2 ⟨h, rfl, by omega, rfl, rfl, rfl, ipf_pos_of_legal h⟩

/-- IPF is a constant of which only that it is at least 1 is known (log 2). -/
theorem legal_defaultParams : defaultParams.legal = true := by
  simp [Params.legal, defaultParams, Config.ipf, fontEnd, memorySize]

/-- Settles O19. Reset is the blank core of the default parameters; an accepted image fits in memory. -/
theorem invariantHoldsAtConstruction : Obligations.InvariantHoldsAtConstruction := by
  unfold Obligations.InvariantHoldsAtConstruction
  refine ⟨inv_blankCore legal_defaultParams, fun p image s hlegal hs => ?_⟩
  obtain ⟨hload, rfl⟩ := construct_eq_some_iff.1 hs
  obtain ⟨-, hstart, hlen⟩ := loadAccepted_iff.1 hload
  refine inv_writeBytes (inv_blankCore hlegal) ?_
  simp only [memorySize]
  omega

theorem reg_reset (j : Nibble) : State.reset.reg j = 0#8 := by
  simp [State.reg, State.reset, defaultParams, defaultFill]

theorem readByte_reset (a : Nat) : State.reset.readByte a = defaultParams.initialByte a :=
  blankCore_readByte defaultParams a

/-- Settles O16. What R250 lists for the default parameters; memory that nothing has written reads as font or fill. -/
theorem resetStateIsConstruction : Obligations.ResetStateIsConstruction := by
  unfold Obligations.ResetStateIsConstruction
  refine ⟨rfl, rfl, Display.pixel_clear, rfl, rfl, rfl, rfl, reg_reset, rfl, rfl, rfl, ?font, ?free⟩
  case font => exact fun a ha => (readByte_reset a).trans (initialByte_of_lt defaultParams ha)
  case free => exact fun a ha => (readByte_reset a).trans (initialByte_of_le defaultParams ha)

end Sys2Proof.Machine
end
